-- ==== Sys2Proof/Word.lean ====
section
/-!
DEFINITION. The word types of the block: a byte is 8 bits, a DMA register or an address 32 bits
(spec/00_scope.md section 6, spec/20_memory.md R50).
-/

namespace Sys2Proof

/-- 8 bits: a task-file register, a packet byte, a queue byte, a byte of guest memory. -/
abbrev Byte := BitVec 8

/-- 16 bits: BYTECNT, or the word one data write adds to a packet. -/
abbrev Half := BitVec 16

/-- 32 bits: a bus address, a guest-memory address, a DMA register. -/
abbrev Word := BitVec 32

end Sys2Proof
end

