-- ==== Sys2Proof/Config.lean ====
section
/-!
DEFINITION. The configuration of the machine: every parameter of spec/00_scope.md R9, and the mount
oracle of spec/20_memory.md R60 as plain data. A parameter with a default in R9 takes it in
`Config.default` (Decode.lean, beside the other encoding tables). A parameter the spec leaves OPEN
(decisions D22, D53) has no value there: its default is made of the opaque constants below, which
nothing in Lean can evaluate.
-/

namespace Sys2Proof

/-- CMD_IN_NON_NORMAL (R9, R150, decision D16): what a command write outside NORMAL does. -/
inductive CommandPolicy where
  /-- the command decode applies in every protocol state -/
  | process
  /-- such a write has no meaning -/
  | refuse
deriving DecidableEq, Repr

/-- HOST_FAULT_POLICY (R9, R262, R271, decision D46, U7): what the host does with a fault, "whether to
halt, log, or treat as a guest-visible protocol fault". -/
inductive FaultPolicy where
  /-- the model stops at the first fault, the default -/
  | halt
  /-- the host logs the fault; the log is the host's -/
  | log
  /-- the host reports the fault to the guest, by means that are its own -/
  | guestVisible
deriving DecidableEq, Repr

/-- The answers of the disc-image collaborator (R60), as data: any oracle on the frame addresses
the block can ask for is one of these. The block never changes it. -/
structure Mount where
  /-- MountCheck(): a medium is present -/
  present : Bool
  /-- MountReadSector(fad): the sectors that can be read, by frame address; any other read fails -/
  sectors : List (Nat × List Byte)
  /-- MountToc(0) -/
  toc0 : List Byte
  /-- MountToc(1) -/
  toc1 : List Byte
deriving DecidableEq, Repr

/-- The parameters of spec/00_scope.md R9, in its order, then the mount. -/
structure Config where
  gdBase : Word
  offAltstatDevctrl : Word
  offData : Word
  offErrorFeatures : Word
  offIntreasonSectcnt : Word
  offSectnum : Word
  offBytecntLo : Word
  offBytecntHi : Word
  offDrvsel : Word
  offStatusCommand : Word
  g1Base : Word
  offGdstar : Word
  offGdlen : Word
  offGddir : Word
  offGden : Word
  offGdst : Word
  offGdapro : Word
  offGdlend : Word
  /-- REG_LEN -/
  regLen : Nat
  /-- ACCESS_LENGTHS -/
  accessLengths : List Nat
  /-- IDENT_BLOCK, `identLen` bytes, OPEN -/
  identBlock : List Byte
  /-- MODE_BLOCK, `modeLen` bytes, OPEN -/
  modeBlock : List Byte
  /-- PKT71_BLOB, OPEN; PKT71_LEN is its length -/
  pkt71Blob : List Byte
  /-- TOC_MAX -/
  tocMax : Nat
  /-- NODE_CAP -/
  nodeCap : Nat
  /-- SECTOR_SIZE -/
  sectorSize : Nat
  /-- QUEUE_MAX_NODES; `none` is unbounded -/
  queueMaxNodes : Option Nat
  cmdReset : Byte
  cmdDiag : Byte
  cmdNop : Byte
  cmdPacket : Byte
  cmdIdentify : Byte
  cmdSetFeatures : Byte
  pktTestUnitReady : Byte
  pktReqMode : Byte
  pktSetMode : Byte
  pktReqError : Byte
  pktReadToc : Byte
  pktRead : Byte
  pktStartDisk : Byte
  pktVendor71 : Byte
  senseNone : BitVec 4
  senseNotReady : BitVec 4
  senseIllegalRequest : BitVec 4
  ascNoError : Byte
  ascNoDisc : Byte
  /-- GDAPRO_CODE -/
  gdaproCode : Half
  /-- GDAPRO_RESET -/
  gdaproReset : Word
  /-- NODATA_PKT_IRQ -/
  nodataPktIrq : Bool
  /-- CMD_IN_NON_NORMAL -/
  cmdInNonNormal : CommandPolicy
  /-- DMA_END_IRQ: the name of a second interrupt line, if there is one -/
  dmaEndIrq : Option String
  /-- HOST_FAULT_POLICY -/
  hostFaultPolicy : FaultPolicy
  mount : Mount
deriving DecidableEq, Repr

/-! The four parameters whose value the source gives and which no rule lets a user override: R9
leaves only "every other default" open. -/

/-- PKT_LEN: bytes in a packet (R9, from the source). -/
abbrev pktLen : Nat := 12

/-- IDENT_LEN: bytes in the identify block (R9, from the source). -/
abbrev identLen : Nat := 80

/-- MODE_LEN: bytes in the mode block (R9, from the source). -/
abbrev modeLen : Nat := 32

/-- ERR_RESP_LEN: most bytes of the REQ_ERROR response (R9, from the source). -/
abbrev errRespLen : Nat := 10

/-! Free values: what R9, R60 and decisions D22, D53 leave open. -/

/-- Byte `i` of IDENT_BLOCK. -/
opaque Config.openIdentByte : Nat → Byte

/-- Byte `i` of MODE_BLOCK. -/
opaque Config.openModeByte : Nat → Byte

/-- Fixes PKT71_LEN, whose value the source does not give. -/
opaque Config.openPkt71Len : Nat

/-- Byte `i` of PKT71_BLOB. -/
opaque Config.openPkt71Byte : Nat → Byte

/-- Whether a medium is mounted. -/
opaque Config.openMountPresent : Bool

/-- The frame addresses whose sector can be read. -/
opaque Config.openMountFads : List Nat

/-- Byte `i` of the sector at frame address `fad`. -/
opaque Config.openDiscByte : Nat → Nat → Byte

/-- Byte `i` of the encoded table of contents of a session. -/
opaque Config.openTocByte : Nat → Nat → Byte

end Sys2Proof
end

