-- ==== Sys2Proof/Syntax.lean ====
section
/-!
DEFINITION. What the block decodes (spec/30_encoding.md R80): bus transactions, ATA commands and
packets. `Instr` has one constructor per row of spec/opcode_table.json.
-/

namespace Sys2Proof

/-- The sixteen descriptors of the register table (spec/20_memory.md R51, R52). -/
inductive Reg where
  | altstatDevctrl | data | errorFeatures | intreasonSectcnt | sectnum
  | bytecntLo | bytecntHi | drvsel | statusCommand
  | gdstar | gdlen | gddir | gden | gdst | gdapro | gdlend
deriving DecidableEq, Repr

/-- The order in which the two tables of R51 and R52 list the descriptors. -/
def Reg.all : List Reg :=
  [.altstatDevctrl, .data, .errorFeatures, .intreasonSectcnt, .sectnum, .bytecntLo, .bytecntHi,
   .drvsel, .statusCommand, .gdstar, .gdlen, .gddir, .gden, .gdst, .gdapro, .gdlend]

/-- One entry of the register table (R39); its handlers are the arms of `exec`. -/
structure Descriptor where
  reg : Reg
  addr : Word
  /-- declared byte length -/
  len : Nat
deriving DecidableEq, Repr

/-- The six ATA commands (R83). -/
inductive AtaOp where
  | nop | reset | diagnostic | packet | identify | setFeatures
deriving DecidableEq, Repr

/-- The eight packet commands (R85). -/
inductive PktOp where
  | testUnitReady | reqMode | setMode | reqError | readToc | read | startDisk | vendor71
deriving DecidableEq, Repr

/-- One bus transaction (R81) as the dispatcher receives it (R110, R111): a read carries a length,
a write its bytes, whose number is the length. -/
inductive Access where
  | read (addr : Word) (len : Nat)
  | write (addr : Word) (data : List Byte)
deriving DecidableEq, Repr

/-- The twelve bytes of a packet, `P[0]` first (R84). -/
abbrev Packet := Vector Byte 12

/-- The `format` column of the opcode table (R80). -/
inductive Format where
  | bus | ata | pkt
deriving DecidableEq, Repr

/-- Why bytes are not an instruction. -/
inductive Reject where
  /-- fewer bytes than the format has -/
  | truncated
  /-- a length outside ACCESS_LENGTHS, or a direction that is neither 0 nor 1 (R81, R95) -/
  | notATransaction
  /-- no descriptor has the address (R112) -/
  | unmapped (addr : Word)
  /-- the length exceeds the declared length (R113) -/
  | tooLong (addr : Word)
  /-- an ATA command outside R83 (R96) -/
  | unknownCommand (cmd : Byte)
  /-- a packet opcode outside R85 (R97) -/
  | unknownPacket (opcode : Byte)
deriving DecidableEq, Repr

/-- The instructions, in the order of spec/opcode_table.json. A register read has the access
length as its operand, a register write the bytes written (least significant first, R54); an ATA
command has none (R82); a packet command has the fields of R86 to R93. -/
inductive Instr where
  | rStatusCommand (len : Nat)
  | wStatusCommand (data : List Byte)
  | rAltstatDevctrl (len : Nat)
  | wAltstatDevctrl (data : List Byte)
  | rData (len : Nat)
  | wData (data : List Byte)
  | rErrorFeatures (len : Nat)
  | wErrorFeatures (data : List Byte)
  | rIntreasonSectcnt (len : Nat)
  | wIntreasonSectcnt (data : List Byte)
  | rSectnum (len : Nat)
  | wSectnum (data : List Byte)
  | rBytecntLo (len : Nat)
  | wBytecntLo (data : List Byte)
  | rBytecntHi (len : Nat)
  | wBytecntHi (data : List Byte)
  | rDrvsel (len : Nat)
  | wDrvsel (data : List Byte)
  | rGdapro (len : Nat)
  | wGdapro (data : List Byte)
  | rGdstar (len : Nat)
  | wGdstar (data : List Byte)
  | rGdlen (len : Nat)
  | wGdlen (data : List Byte)
  | rGddir (len : Nat)
  | wGddir (data : List Byte)
  | rGden (len : Nat)
  | wGden (data : List Byte)
  | rGdst (len : Nat)
  | wGdst (data : List Byte)
  | rGdlend (len : Nat)
  | wGdlend (data : List Byte)
  | nop
  | reset
  | diagnostic
  | packet
  | identify
  | setFeatures
  | testUnitReady
  | reqMode (start len : Byte)
  | setMode
  | reqError (len : Byte)
  | readToc (session : BitVec 1) (alloc : Half)
  | read (sel : BitVec 4) (exp : BitVec 3) (ptype : BitVec 1) (fad cnt : BitVec 24)
  | startDisk
  | vendor71
deriving DecidableEq, Repr

end Sys2Proof
end

