-- ==== Sys2Proof/WellFormed.lean ====
section
/-!
DEFINITION. Which configurations make sense (`Config.Wf`) and which instructions the bus can issue
under one (`Instr.Wf`).
-/

namespace Sys2Proof

/-- The address of a descriptor: window base plus offset (spec/20_memory.md R51, R52). -/
def Config.addrOf (c : Config) : Reg → Word
  | .altstatDevctrl => c.gdBase + c.offAltstatDevctrl
  | .data => c.gdBase + c.offData
  | .errorFeatures => c.gdBase + c.offErrorFeatures
  | .intreasonSectcnt => c.gdBase + c.offIntreasonSectcnt
  | .sectnum => c.gdBase + c.offSectnum
  | .bytecntLo => c.gdBase + c.offBytecntLo
  | .bytecntHi => c.gdBase + c.offBytecntHi
  | .drvsel => c.gdBase + c.offDrvsel
  | .statusCommand => c.gdBase + c.offStatusCommand
  | .gdstar => c.g1Base + c.offGdstar
  | .gdlen => c.g1Base + c.offGdlen
  | .gddir => c.g1Base + c.offGddir
  | .gden => c.g1Base + c.offGden
  | .gdst => c.g1Base + c.offGdst
  | .gdapro => c.g1Base + c.offGdapro
  | .gdlend => c.g1Base + c.offGdlend

/-- The command values of R83. -/
def Config.ataCode (c : Config) : AtaOp → Byte
  | .nop => c.cmdNop
  | .reset => c.cmdReset
  | .diagnostic => c.cmdDiag
  | .packet => c.cmdPacket
  | .identify => c.cmdIdentify
  | .setFeatures => c.cmdSetFeatures

/-- The packet opcodes of R85. -/
def Config.pktCode (c : Config) : PktOp → Byte
  | .testUnitReady => c.pktTestUnitReady
  | .reqMode => c.pktReqMode
  | .setMode => c.pktSetMode
  | .reqError => c.pktReqError
  | .readToc => c.pktReadToc
  | .read => c.pktRead
  | .startDisk => c.pktStartDisk
  | .vendor71 => c.pktVendor71

/-- The order of the case analysis of R150. -/
def AtaOp.all : List AtaOp := [.reset, .diagnostic, .nop, .packet, .identify, .setFeatures]

/-- The order of the case analysis of R174. -/
def PktOp.all : List PktOp :=
  [.testUnitReady, .reqMode, .setMode, .reqError, .readToc, .read, .startDisk, .vendor71]

/-- The mount answers with sectors of SECTOR_SIZE bytes and tables of TOC_MAX bytes (R60). -/
structure Mount.Wf (m : Mount) (sectorSize tocMax : Nat) : Prop where
  sector : ∀ p ∈ m.sectors, p.2.length = sectorSize
  toc0 : m.toc0.length = tocMax
  toc1 : m.toc1.length = tocMax

/-- What the spec says of the parameters: distinct, 4-byte-aligned addresses (R61, R112, D1), distinct command values and opcodes (R83, R85), block lengths
(R9), sizes that fit a node (R26, R180, R185), a reset value of GDAPRO with only stored bits (R37),
and SENSE_NONE the value ClearError() writes (R13). -/
structure Config.Wf (c : Config) : Prop where
  addrDistinct : (Reg.all.map c.addrOf).Nodup
  addrAligned : ∀ r : Reg, (c.addrOf r).toNat % 4 = 0
  /-- The spec bounds an overriding ACCESS_LENGTHS neither below nor above; that a length is 1 to 256,
  what the length byte of the model's layout can hold, is the model's. DESIGN CHOICE
  (notes/assumptions/15.md). -/
  lengths : ∀ n ∈ c.accessLengths, 1 ≤ n ∧ n ≤ 256
  ataDistinct : (AtaOp.all.map c.ataCode).Nodup
  pktDistinct : (PktOp.all.map c.pktCode).Nodup
  ident : c.identBlock.length = identLen
  mode : c.modeBlock.length = modeLen
  pkt71 : 1 ≤ c.pkt71Blob.length ∧ c.pkt71Blob.length ≤ c.nodeCap
  nodeCap : identLen ≤ c.nodeCap ∧ c.nodeCap < 65536
  sector : 1 ≤ c.sectorSize ∧ c.sectorSize ≤ c.nodeCap
  toc : c.tocMax ≤ c.nodeCap
  gdaproReset : c.gdaproReset &&& 0x00007F7F#32 = c.gdaproReset
  senseNone : c.senseNone = 0#4
  mount : c.mount.Wf c.sectorSize c.tocMax

/-- A length the bus can issue (R54, D3) and the dispatcher accepts (R113). -/
def Config.lenOk (c : Config) (n : Nat) : Bool :=
  c.accessLengths.contains n && decide (n ≤ c.regLen)

/-- The access length of a bus instruction; `none` for the commands, which have no length. -/
def Instr.busLen : Instr → Option Nat
  | .rStatusCommand n | .rAltstatDevctrl n | .rData n | .rErrorFeatures n
  | .rIntreasonSectcnt n | .rSectnum n | .rBytecntLo n | .rBytecntHi n | .rDrvsel n
  | .rGdapro n | .rGdstar n | .rGdlen n | .rGddir n | .rGden n | .rGdst n | .rGdlend n => some n
  | .wStatusCommand d | .wAltstatDevctrl d | .wData d | .wErrorFeatures d
  | .wIntreasonSectcnt d | .wSectnum d | .wBytecntLo d | .wBytecntHi d | .wDrvsel d
  | .wGdapro d | .wGdstar d | .wGdlen d | .wGddir d | .wGden d | .wGdst d | .wGdlend d =>
    some d.length
  | .nop | .reset | .diagnostic | .packet | .identify | .setFeatures => none
  | .testUnitReady | .reqMode _ _ | .setMode | .reqError _ | .readToc _ _ | .read _ _ _ _ _
  | .startDisk | .vendor71 => none

/-- An instruction that can be issued: the length of a bus access is legal. The fields of a packet
have their widths in their types. -/
def Instr.wf (c : Config) (i : Instr) : Bool :=
  match i.busLen with
  | some n => c.lenOk n
  | none => true

end Sys2Proof
end

