-- ==== Sys2Proof/Decode.lean ====
section
/-!
DEFINITION. The encodings of spec/30_encoding.md: the numbers of R9, R51, R52, R83 and R85
(`Config.default`), the decoder of the three formats, total on any bytes and rejecting by name, and
the encoder beside it.
-/

namespace Sys2Proof

/-! ## Numbers -/

/-- IDENT_BLOCK of `Config.default`: 80 open bytes. -/
def Config.openIdentBlock : List Byte := (List.range identLen).map Config.openIdentByte

/-- MODE_BLOCK of `Config.default`: 32 open bytes. -/
def Config.openModeBlock : List Byte := (List.range modeLen).map Config.openModeByte

/-- PKT71_BLOB of `Config.default`: between 1 and NODE_CAP = 2352 open bytes (R9). -/
def Config.openPkt71Blob : List Byte :=
  (List.range (1 + Config.openPkt71Len % 2352)).map Config.openPkt71Byte

/-- The mount of `Config.default`: open answers of the shape R60 fixes. -/
def Config.openMount : Mount where
  present := Config.openMountPresent
  sectors := Config.openMountFads.map fun fad => (fad, (List.range 2048).map (Config.openDiscByte fad))
  toc0 := (List.range 408).map (Config.openTocByte 0)
  toc1 := (List.range 408).map (Config.openTocByte 1)

/-- The defaults of spec/00_scope.md R9. -/
def Config.default : Config where
  gdBase := 0x005F7000#32
  offAltstatDevctrl := 0x018#32
  offData := 0x080#32
  offErrorFeatures := 0x084#32
  offIntreasonSectcnt := 0x088#32
  offSectnum := 0x08C#32
  offBytecntLo := 0x090#32
  offBytecntHi := 0x094#32
  offDrvsel := 0x098#32
  offStatusCommand := 0x09C#32
  g1Base := 0x005F7400#32
  offGdstar := 0x04#32
  offGdlen := 0x08#32
  offGddir := 0x0C#32
  offGden := 0x14#32
  offGdst := 0x18#32
  offGdapro := 0xB8#32
  offGdlend := 0xF8#32
  regLen := 4
  accessLengths := [1, 2, 4]
  identBlock := Config.openIdentBlock
  modeBlock := Config.openModeBlock
  pkt71Blob := Config.openPkt71Blob
  tocMax := 408
  nodeCap := 2352
  sectorSize := 2048
  queueMaxNodes := none
  cmdReset := 0x08#8
  cmdDiag := 0x90#8
  cmdNop := 0x00#8
  cmdPacket := 0xA0#8
  cmdIdentify := 0xA1#8
  cmdSetFeatures := 0xEF#8
  pktTestUnitReady := 0x00#8
  pktReqMode := 0x11#8
  pktSetMode := 0x12#8
  pktReqError := 0x13#8
  pktReadToc := 0x14#8
  pktRead := 0x30#8
  pktStartDisk := 0x70#8
  pktVendor71 := 0x71#8
  senseNone := 0#4
  senseNotReady := 2#4
  senseIllegalRequest := 5#4
  ascNoError := 0x00#8
  ascNoDisc := 0x3A#8
  gdaproCode := 0x8843#16
  gdaproReset := 0x00007F00#32
  nodataPktIrq := false
  cmdInNonNormal := .process
  dmaEndIrq := none
  hostFaultPolicy := .halt
  mount := Config.openMount

/-! ## Byte order -/

/-- `value(b)`: the natural whose little-endian bytes are `b` (R54). -/
def leValue : List Byte → Nat
  | [] => 0
  | b :: bs => b.toNat + 256 * leValue bs

/-- `bytes(v, n)`: the `n` bytes of `v`, least significant first (R54). -/
def leBytes : Nat → Nat → List Byte
  | 0, _ => []
  | n + 1, v => BitVec.ofNat 8 v :: leBytes n (v / 256)

/-! ## Level 1: bus transactions (R81, R110 to R113) -/

/-- The register descriptor table (R39). -/
def Config.table (c : Config) : List Descriptor :=
  Reg.all.map fun r => ⟨r, c.addrOf r, c.regLen⟩

/-- Lookup "by exact address match" (R112). -/
def Config.lookup (c : Config) (a : Word) : Option Descriptor :=
  c.table.find? fun d => d.addr == a

/-- The instruction that reads a register. -/
def Reg.readInstr (r : Reg) (n : Nat) : Instr :=
  match r with
  | .altstatDevctrl => .rAltstatDevctrl n
  | .data => .rData n
  | .errorFeatures => .rErrorFeatures n
  | .intreasonSectcnt => .rIntreasonSectcnt n
  | .sectnum => .rSectnum n
  | .bytecntLo => .rBytecntLo n
  | .bytecntHi => .rBytecntHi n
  | .drvsel => .rDrvsel n
  | .statusCommand => .rStatusCommand n
  | .gdstar => .rGdstar n
  | .gdlen => .rGdlen n
  | .gddir => .rGddir n
  | .gden => .rGden n
  | .gdst => .rGdst n
  | .gdapro => .rGdapro n
  | .gdlend => .rGdlend n

/-- The instruction that writes a register. -/
def Reg.writeInstr (r : Reg) (d : List Byte) : Instr :=
  match r with
  | .altstatDevctrl => .wAltstatDevctrl d
  | .data => .wData d
  | .errorFeatures => .wErrorFeatures d
  | .intreasonSectcnt => .wIntreasonSectcnt d
  | .sectnum => .wSectnum d
  | .bytecntLo => .wBytecntLo d
  | .bytecntHi => .wBytecntHi d
  | .drvsel => .wDrvsel d
  | .statusCommand => .wStatusCommand d
  | .gdstar => .wGdstar d
  | .gdlen => .wGdlen d
  | .gddir => .wGddir d
  | .gden => .wGden d
  | .gdst => .wGdst d
  | .gdapro => .wGdapro d
  | .gdlend => .wGdlend d

/-- The address and the length of an access. -/
def Access.addr : Access → Word
  | .read a _ => a
  | .write a _ => a

/-- See `Access.addr`. -/
def Access.len : Access → Nat
  | .read _ n => n
  | .write _ d => d.length

/-- The instruction of an access to a register. -/
def Access.instr (a : Access) (r : Reg) : Instr :=
  match a with
  | .read _ n => r.readInstr n
  | .write _ d => r.writeInstr d

/-- The checks the dispatcher makes before any handler runs, in their order: the length is one the
bus can issue (R95, D3), a descriptor has the address (R112), the length does not exceed the
declared length (R113). -/
def decodeAccess (c : Config) (a : Access) : Except Reject Instr :=
  if c.accessLengths.contains a.len then
    match c.lookup a.addr with
    | none => .error (.unmapped a.addr)
    | some d => if d.len < a.len then .error (.tooLong a.addr) else .ok (a.instr d.reg)
  else .error .notATransaction

/-! ## Level 2: ATA commands (R82, R83, R150) -/

/-- The command a byte selects. -/
def Config.ataOp (c : Config) (cmd : Byte) : Option AtaOp :=
  AtaOp.all.find? fun op => c.ataCode op == cmd

/-- The instruction of a command. -/
def AtaOp.instr : AtaOp → Instr
  | .nop => .nop
  | .reset => .reset
  | .diagnostic => .diagnostic
  | .packet => .packet
  | .identify => .identify
  | .setFeatures => .setFeatures

/-- Decoding of the byte written to the command register. -/
def decodeCommand (c : Config) (cmd : Byte) : Except Reject Instr :=
  match c.ataOp cmd with
  | none => .error (.unknownCommand cmd)
  | some op => .ok op.instr

/-! ## Level 3: packets (R84 to R94, R174) -/

/-- The packet command an opcode selects. -/
def Config.pktOp (c : Config) (opcode : Byte) : Option PktOp :=
  PktOp.all.find? fun op => c.pktCode op == opcode

/-- REQ_MODE: `start` = P[2] (R87). -/
def Packet.reqModeStart (p : Packet) : Byte := p[2]
/-- REQ_MODE: `len` = P[4] (R87). -/
def Packet.reqModeLen (p : Packet) : Byte := p[4]
/-- REQ_ERROR: `len` = P[4] (R89). -/
def Packet.reqErrorLen (p : Packet) : Byte := p[4]
/-- READ_TOC: `session` = P[1][0] (R90). -/
def Packet.tocSession (p : Packet) : BitVec 1 := p[1].extractLsb' 0 1
/-- READ_TOC: `alloc` = P[3], P[4], big-endian (R90). -/
def Packet.tocAlloc (p : Packet) : Half := p[3] ++ p[4]
/-- READ: `sel` = P[1][7:4] (R91). -/
def Packet.readSel (p : Packet) : BitVec 4 := p[1].extractLsb' 4 4
/-- READ: `exp` = P[1][3:1] (R91). -/
def Packet.readExp (p : Packet) : BitVec 3 := p[1].extractLsb' 1 3
/-- READ: `ptype` = P[1][0] (R91). -/
def Packet.readPtype (p : Packet) : BitVec 1 := p[1].extractLsb' 0 1
/-- READ: `fad` = P[2..4], big-endian (R91). -/
def Packet.readFad (p : Packet) : BitVec 24 := p[2] ++ p[3] ++ p[4]
/-- READ: `cnt` = P[8..10], big-endian (R91). -/
def Packet.readCnt (p : Packet) : BitVec 24 := p[8] ++ p[9] ++ p[10]

/-- The instruction of a packet whose opcode is that of `op`. -/
def PktOp.instr (op : PktOp) (p : Packet) : Instr :=
  match op with
  | .testUnitReady => .testUnitReady
  | .reqMode => .reqMode p.reqModeStart p.reqModeLen
  | .setMode => .setMode
  | .reqError => .reqError p.reqErrorLen
  | .readToc => .readToc p.tocSession p.tocAlloc
  | .read => .read p.readSel p.readExp p.readPtype p.readFad p.readCnt
  | .startDisk => .startDisk
  | .vendor71 => .vendor71

/-- "The buffer is decoded by its first byte as a packet opcode" (R84). -/
def decodePacket (c : Config) (p : Packet) : Except Reject Instr :=
  match c.pktOp p[0] with
  | none => .error (.unknownPacket p[0])
  | some op => .ok (op.instr p)

/-! ## Bytes

The spec gives formats ATA and PKT as bytes, and format BUS as fields (R81). The byte layout of a
transaction is the model's: the address (least significant byte first), a direction byte (0 read,
1 write), a byte holding the length less one, then for a write its bytes.
DESIGN CHOICE (notes/assumptions/15.md). -/

/-- A bus transaction from the front of a list of bytes. -/
def parseAccess : List Byte → Except Reject (Access × List Byte)
  | a0 :: a1 :: a2 :: a3 :: dir :: lenLess1 :: rest =>
    let addr := BitVec.ofNat 32 (leValue [a0, a1, a2, a3])
    let n := lenLess1.toNat + 1
    if dir = 0#8 then .ok (.read addr n, rest)
    else if dir = 1#8 then
      if rest.length < n then .error .truncated else .ok (.write addr (rest.take n), rest.drop n)
    else .error .notATransaction
  | _ => .error .truncated

/-- A packet from the front of a list of bytes. -/
def parsePacket : List Byte → Except Reject (Packet × List Byte)
  | p0 :: p1 :: p2 :: p3 :: p4 :: p5 :: p6 :: p7 :: p8 :: p9 :: p10 :: p11 :: rest =>
    .ok (#v[p0, p1, p2, p3, p4, p5, p6, p7, p8, p9, p10, p11], rest)
  | _ => .error .truncated

/-- The decoder: the instruction at the front of `bs`, read in format `f`, and the bytes after it. -/
def decode (c : Config) (f : Format) (bs : List Byte) : Except Reject (Instr × List Byte) :=
  match f with
  | .bus =>
    match parseAccess bs with
    | .error e => .error e
    | .ok (a, rest) =>
      match decodeAccess c a with
      | .error e => .error e
      | .ok i => .ok (i, rest)
  | .ata =>
    match bs with
    | [] => .error .truncated
    | cmd :: rest =>
      match decodeCommand c cmd with
      | .error e => .error e
      | .ok i => .ok (i, rest)
  | .pkt =>
    match parsePacket bs with
    | .error e => .error e
    | .ok (p, rest) =>
      match decodePacket c p with
      | .error e => .error e
      | .ok i => .ok (i, rest)

/-! ## The encoder -/

/-- The bytes of a bus transaction. -/
def Access.bytes : Access → List Byte
  | .read a n => leBytes 4 a.toNat ++ [0#8, BitVec.ofNat 8 (n - 1)]
  | .write a d => leBytes 4 a.toNat ++ [1#8, BitVec.ofNat 8 (d.length - 1)] ++ d

/-- The bytes of a register read. -/
def encodeRead (c : Config) (r : Reg) (n : Nat) : List Byte := (Access.read (c.addrOf r) n).bytes

/-- The bytes of a register write. -/
def encodeWrite (c : Config) (r : Reg) (d : List Byte) : List Byte :=
  (Access.write (c.addrOf r) d).bytes

/-- The most significant byte of three (big-endian fields, R57). -/
def byte2 (v : BitVec 24) : Byte := v.extractLsb' 16 8
/-- See `byte2`. -/
def byte1 (v : BitVec 24) : Byte := v.extractLsb' 8 8
/-- See `byte2`. -/
def byte0 (v : BitVec 24) : Byte := v.extractLsb' 0 8

/-- The format of an instruction. -/
def Instr.format : Instr → Format
  | .rStatusCommand _ | .wStatusCommand _ | .rAltstatDevctrl _ | .wAltstatDevctrl _
  | .rData _ | .wData _ | .rErrorFeatures _ | .wErrorFeatures _
  | .rIntreasonSectcnt _ | .wIntreasonSectcnt _ | .rSectnum _ | .wSectnum _
  | .rBytecntLo _ | .wBytecntLo _ | .rBytecntHi _ | .wBytecntHi _ | .rDrvsel _ | .wDrvsel _
  | .rGdapro _ | .wGdapro _ | .rGdstar _ | .wGdstar _ | .rGdlen _ | .wGdlen _
  | .rGddir _ | .wGddir _ | .rGden _ | .wGden _ | .rGdst _ | .wGdst _
  | .rGdlend _ | .wGdlend _ => .bus
  | .nop | .reset | .diagnostic | .packet | .identify | .setFeatures => .ata
  | .testUnitReady | .reqMode _ _ | .setMode | .reqError _ | .readToc _ _ | .read _ _ _ _ _
  | .startDisk | .vendor71 => .pkt

/-- The bytes of an instruction in its format; ignored packet bits (R98) are encoded as 0. -/
def encode (c : Config) : Instr → List Byte
  | .rStatusCommand n => encodeRead c .statusCommand n
  | .wStatusCommand d => encodeWrite c .statusCommand d
  | .rAltstatDevctrl n => encodeRead c .altstatDevctrl n
  | .wAltstatDevctrl d => encodeWrite c .altstatDevctrl d
  | .rData n => encodeRead c .data n
  | .wData d => encodeWrite c .data d
  | .rErrorFeatures n => encodeRead c .errorFeatures n
  | .wErrorFeatures d => encodeWrite c .errorFeatures d
  | .rIntreasonSectcnt n => encodeRead c .intreasonSectcnt n
  | .wIntreasonSectcnt d => encodeWrite c .intreasonSectcnt d
  | .rSectnum n => encodeRead c .sectnum n
  | .wSectnum d => encodeWrite c .sectnum d
  | .rBytecntLo n => encodeRead c .bytecntLo n
  | .wBytecntLo d => encodeWrite c .bytecntLo d
  | .rBytecntHi n => encodeRead c .bytecntHi n
  | .wBytecntHi d => encodeWrite c .bytecntHi d
  | .rDrvsel n => encodeRead c .drvsel n
  | .wDrvsel d => encodeWrite c .drvsel d
  | .rGdapro n => encodeRead c .gdapro n
  | .wGdapro d => encodeWrite c .gdapro d
  | .rGdstar n => encodeRead c .gdstar n
  | .wGdstar d => encodeWrite c .gdstar d
  | .rGdlen n => encodeRead c .gdlen n
  | .wGdlen d => encodeWrite c .gdlen d
  | .rGddir n => encodeRead c .gddir n
  | .wGddir d => encodeWrite c .gddir d
  | .rGden n => encodeRead c .gden n
  | .wGden d => encodeWrite c .gden d
  | .rGdst n => encodeRead c .gdst n
  | .wGdst d => encodeWrite c .gdst d
  | .rGdlend n => encodeRead c .gdlend n
  | .wGdlend d => encodeWrite c .gdlend d
  | .nop => [c.cmdNop]
  | .reset => [c.cmdReset]
  | .diagnostic => [c.cmdDiag]
  | .packet => [c.cmdPacket]
  | .identify => [c.cmdIdentify]
  | .setFeatures => [c.cmdSetFeatures]
  | .testUnitReady => c.pktTestUnitReady :: List.replicate 11 0#8
  | .reqMode start len =>
    [c.pktReqMode, 0#8, start, 0#8, len, 0#8, 0#8, 0#8, 0#8, 0#8, 0#8, 0#8]
  | .setMode => c.pktSetMode :: List.replicate 11 0#8
  | .reqError len => [c.pktReqError, 0#8, 0#8, 0#8, len, 0#8, 0#8, 0#8, 0#8, 0#8, 0#8, 0#8]
  | .readToc session alloc =>
    [c.pktReadToc, session.setWidth 8, 0#8, alloc.extractLsb' 8 8, alloc.extractLsb' 0 8,
     0#8, 0#8, 0#8, 0#8, 0#8, 0#8, 0#8]
  | .read sel exp ptype fad cnt =>
    [c.pktRead, sel ++ exp ++ ptype, byte2 fad, byte1 fad, byte0 fad, 0#8, 0#8, 0#8,
     byte2 cnt, byte1 cnt, byte0 cnt, 0#8]
  | .startDisk => c.pktStartDisk :: List.replicate 11 0#8
  | .vendor71 => c.pktVendor71 :: List.replicate 11 0#8

/-! ## Words of the opcode table (R108) -/

/-- The format of a table row with `nbits` bits: 8 for an ATA command, 96 for a packet, any other
number for a bus transaction (the table gives those the 32 address bits). -/
def tableFormat (nbits : Nat) : Format :=
  if nbits = 8 then .ata else if nbits = 96 then .pkt else .bus

/-- The bytes of a table word, bits above `nbits` zero. A packet's number has `P[0]` in bits 95:88
(R84, R108); the others are least significant byte first, a bus transaction as long as the longest
(a 4-byte write, 10 bytes). -/
def tableBytes (nbits w : Nat) : List Byte :=
  match tableFormat nbits with
  | .ata => leBytes 1 (w % 2 ^ 8)
  | .pkt => (leBytes 12 (w % 2 ^ 96)).reverse
  | .bus => leBytes 10 (w % 2 ^ nbits)

/-- The instruction the decoder reads from a word of the opcode table. The rows of one register's
read and write have the same word (R108); with all bits above it 0 it is the 1-byte read. -/
def decodeTableWord (nbits w : Nat) : Option Instr :=
  match decode Config.default (tableFormat nbits) (tableBytes nbits w) with
  | .ok (i, _) => some i
  | .error _ => none

end Sys2Proof
end

