-- ==== Sys2Proof/Machine/State.lean ====
section
/-!
DEFINITION. The state of the machine (spec/10_state.md), the reasons a step stops
(spec/60_exceptions.md R260), and the state after reset (spec/10_state.md R41).
-/

namespace Sys2Proof.Machine

/-- PSTATE (R22). -/
inductive PState where
  | normal | awaitingPacket | awaitingModeData
deriving DecidableEq, Repr

/-- One node of the buffer queue (R26): its cursor and its valid bytes; the valid length is their
number. -/
structure Node where
  cursor : Nat
  data : List Byte
deriving DecidableEq, Repr

/-- TMODE (R25), its five entries by the names of their indices 0 to 4. -/
structure TransferModes where
  pioDflt : Byte
  pioFlow : Byte
  swDma : Byte
  mwDma : Byte
  pseudoDma : Byte
deriving DecidableEq, Repr

/-- Guest memory as the block has written it: addresses strictly rising (`Memory.wf`). -/
abbrev Memory := List Host.Cell

/-- Why an access ends with `UnimplementedAccess` (R261). -/
inductive AccessProblem where
  | noDescriptor | tooLong
deriving DecidableEq, Repr

/-- The recognised but unsupported combinations (R261). -/
inductive Feature where
  /-- SET_MODE with FEATURES.DMA = 1 (R177) -/
  | setModeDma
  /-- READ with data selection other than whole-sector data (R181) -/
  | readSelection
  /-- READ with addressing format other than LBA/FAD (R181) -/
  | readAddressing
  /-- a drain in the direction memory to controller (R241) -/
  | dmaDirection
deriving DecidableEq, Repr

/-- The five faults (R260), in the order of their codes. A fault is a terminal outcome (R271), so it is
safe: nothing can be proved of a run past one. Where HOST_FAULT_POLICY is not `halt`, `step` answers
UnimplementedAccess with a next state instead (notes/assumptions/35.md). -/
inductive Fault where
  /-- raised by the dispatcher before any handler runs (R112, R113); safe -/
  | unimplementedAccess (what : AccessProblem) (addr : Word)
  /-- raised by a write to STATUS_COMMAND of a byte outside R83 (R157); safe -/
  | unimplementedCommand (cmd : Byte)
  /-- raised by the data write that completes a packet with an opcode outside R85 (R184); safe -/
  | unimplementedPacket (opcode : Byte)
  /-- raised by SET_MODE, READ and the DMA trigger (R177, R181, R241); safe -/
  | unimplementedFeature (what : Feature)
  /-- raised by a queue push when QUEUE_MAX_NODES nodes are queued (R27); safe -/
  | allocationFailure
deriving DecidableEq, Repr

/-- Inputs and instructions the model gives no meaning. -/
inductive Refusal where
  /-- raised by `exec` for an instruction without a meaning yet; safe -/
  | notModelled (mnemonic : String)
  /-- raised by `step` for an access the bus cannot issue, a length outside ACCESS_LENGTHS (R95,
  decision D3); safe -/
  | notATransaction
  /-- raised by a command write outside NORMAL when the parameter CMD_IN_NON_NORMAL is `refuse`
  (R150, decision D16); safe -/
  | commandInNonNormal
deriving DecidableEq, Repr

/-- The machine. -/
structure State where
  /-- STATUS (R11) -/
  status : Byte
  /-- ERROR (R12) -/
  error : Byte
  /-- ASC (R14) -/
  asc : Byte
  /-- FEATURES (R15) -/
  features : Byte
  /-- SECTCNT (R16) -/
  sectcnt : Byte
  /-- INTREASON (R17) -/
  intreason : Byte
  /-- DEVCTRL (R18) -/
  devctrl : Byte
  /-- BYTECNT (R19) -/
  bytecnt : Half
  /-- SECTNUM (R20) -/
  sectnum : Byte
  /-- DRVSEL (R21) -/
  drvsel : Byte
  /-- PSTATE (R22) -/
  pstate : PState
  /-- PCNT, a signed mathematical integer (R23) -/
  pcnt : Int
  /-- PKT[0..11] (R24) -/
  pkt : Packet
  /-- TMODE[0..4] (R25) -/
  tmode : TransferModes
  /-- Q, front first (R26) -/
  q : List Node
  /-- GDSTAR (R31) -/
  gdstar : Word
  /-- GDLEN (R32) -/
  gdlen : Word
  /-- GDDIR (R33) -/
  gddir : Word
  /-- GDEN (R34) -/
  gden : Word
  /-- GDST (R35) -/
  gdst : Word
  /-- GDLEND (R36) -/
  gdlend : Word
  /-- GDAPRO, the stored fields (R37) -/
  gdapro : Word
  /-- IRQ, the controller interrupt line (R38) -/
  irq : Bool
  /-- the second line, if DMA_END_IRQ names one (R38, R246) -/
  dmaEndLine : Bool
  /-- GMEM, guest memory as written by the drain (R40, R59) -/
  gmem : Memory
  /-- the model's own: the bytes the last completed read access returned (R110) -/
  readData : List Byte
  /-- the model's own: the accesses the bus master has issued, oldest first (R4) -/
  pending : List Access
  /-- the model's own: the configuration (R9), which no step changes -/
  cfg : Config
deriving DecidableEq, Repr

/-- The result of an access or a step. -/
abbrev Out := Host.Outcome State Fault Refusal

/-- The state after reset of a machine with configuration `c` (R41, R300). PSTATE is the source's;
every other value is the spec's decision D45 (notes/assumptions/9.md). -/
def State.resetOf (c : Config) : State where
  status := 0x00#8
  error := 0x00#8
  asc := c.ascNoError
  features := 0x00#8
  sectcnt := 0x00#8
  intreason := 0x00#8
  devctrl := 0x00#8
  bytecnt := 0x0000#16
  sectnum := 0x00#8
  drvsel := 0x00#8
  pstate := .normal
  pcnt := 0
  pkt := Vector.replicate 12 0x00#8
  tmode := ⟨0x00#8, 0x00#8, 0x00#8, 0x00#8, 0x00#8⟩
  q := []
  gdstar := 0#32
  gdlen := 0#32
  gddir := 0#32
  gden := 0#32
  gdst := 0#32
  gdlend := 0#32
  gdapro := c.gdaproReset
  irq := false
  dmaEndLine := false
  gmem := []
  readData := []
  pending := []
  cfg := c

/-- The machine right after reset, with the default parameters of R9. -/
def State.reset : State := State.resetOf Config.default

end Sys2Proof.Machine
end

