-- ==== Sys2Proof/Machine/Flags.lean ====
section
/-!
DEFINITION. The bits of STATUS, ERROR, INTREASON, FEATURES, DEVCTRL, GDEN and GDDIR
(spec/10_state.md R11, R12, R15, R17, R18, R33, R34) and the patterns the commands write into them.
-/

namespace Sys2Proof.Machine

/-- `v` with bit `i` made `b`. -/
def withBit (v : Byte) (i : Nat) (b : Bool) : Byte :=
  if b then v ||| (1#8 <<< i) else v &&& ~~~(1#8 <<< i)

/-! ## STATUS (R11, decision D6) -/

/-- STATUS.BSY -/
def State.bsy (s : State) : Bool := s.status.getLsbD 7
/-- STATUS.DRDY -/
def State.drdy (s : State) : Bool := s.status.getLsbD 6
/-- STATUS.DF -/
def State.df (s : State) : Bool := s.status.getLsbD 5
/-- STATUS.DSC -/
def State.dsc (s : State) : Bool := s.status.getLsbD 4
/-- STATUS.DRQ -/
def State.drq (s : State) : Bool := s.status.getLsbD 3
/-- STATUS.CORR -/
def State.corr (s : State) : Bool := s.status.getLsbD 2
/-- STATUS.CHECK -/
def State.check (s : State) : Bool := s.status.getLsbD 0

/-- STATUS.BSY <- b -/
def State.setBsy (s : State) (b : Bool) : State := { s with status := withBit s.status 7 b }
/-- STATUS.DRDY <- b -/
def State.setDrdy (s : State) (b : Bool) : State := { s with status := withBit s.status 6 b }
/-- STATUS.DRQ <- b -/
def State.setDrq (s : State) (b : Bool) : State := { s with status := withBit s.status 3 b }
/-- STATUS.CHECK <- b -/
def State.setCheck (s : State) (b : Bool) : State := { s with status := withBit s.status 0 b }

/-! ## ERROR and ASC (R12 to R14, decisions D7, D32) -/

/-- "The raw 32-bit accessor": ERROR as a single 32-bit word, zero-extended -/
def State.errorWord (s : State) : Word := s.error.setWidth 32

/-- ERROR.SENSE, bits 7:4 -/
def State.sense (s : State) : BitVec 4 := s.error.extractLsb' 4 4
/-- ERROR.MCR -/
def State.mcr (s : State) : Bool := s.error.getLsbD 3
/-- ERROR.ABRT -/
def State.abrt (s : State) : Bool := s.error.getLsbD 2
/-- ERROR.EOMF -/
def State.eomf (s : State) : Bool := s.error.getLsbD 1
/-- ERROR.ILI -/
def State.ili (s : State) : Bool := s.error.getLsbD 0

/-- ERROR.SENSE <- v; bits 3:0 keep their value -/
def State.setSense (s : State) (v : BitVec 4) : State :=
  { s with error := v ++ s.error.extractLsb' 0 4 }

/-- ClearError() (R13) -/
def State.clearError (s : State) : State := { s with error := 0x00#8, asc := s.cfg.ascNoError }

/-! ## INTREASON (R17, decision D8) -/

/-- INTREASON.COD -/
def State.cod (s : State) : Bool := s.intreason.getLsbD 0
/-- INTREASON.IO -/
def State.io (s : State) : Bool := s.intreason.getLsbD 1

/-- INTREASON.COD <- cod; INTREASON.IO <- io -/
def State.setReason (s : State) (cod io : Bool) : State :=
  { s with intreason := withBit (withBit s.intreason 0 cod) 1 io }

/-! ## FEATURES, DEVCTRL, GDEN, GDDIR (R15, R18, R33, R34) -/

/-- FEATURES.DMA (decision D9) -/
def State.featDma (s : State) : Bool := s.features.getLsbD 0
/-- DEVCTRL.nIEN: 1 masks the controller interrupt (decision D10) -/
def State.nIEN (s : State) : Bool := s.devctrl.getLsbD 1
/-- GDEN[0]: the drain is enabled (decision D39) -/
def State.dmaEnabled (s : State) : Bool := s.gden.getLsbD 0
/-- GDDIR[0]: the direction is controller to memory (decision D40) -/
def State.dmaToMemory (s : State) : Bool := s.gddir.getLsbD 0

/-- The completion of a transfer by PIO or DMA, without its interrupt (R212, R246): DRQ and BSY are
cleared, DRDY is set. -/
def State.transferDone (s : State) : State := ((s.setDrq false).setBsy false).setDrdy true

/-- The completion of a command without data, up to CHECK (R175, R182): COD and IO, BSY and DRQ
cleared, DRDY set. -/
def State.noDataDone (s : State) : State :=
  (((s.setReason true true).setBsy false).setDrq false).setDrdy true

end Sys2Proof.Machine
end

