-- ==== Sys2Proof/Machine/Operands.lean ====
section
/-!
DEFINITION. The operand forms: the value a register write carries (spec/20_memory.md R54, R55), the
halves of BYTECNT (spec/10_state.md R19), the protection window (R37), the transfer-mode patterns of
SET_FEATURES (spec/41_ata_commands.md R156), the clamp of REQ_MODE and the response of REQ_ERROR
(spec/42_packet_commands.md R176, R179).
-/

namespace Sys2Proof.Machine

/-- `value(data)[7:0]`, what a write stores in an 8-bit register (R55). -/
def byteOf (data : List Byte) : Byte := BitVec.ofNat 8 (leValue data)

/-- `value(data)[15:0]`, what a data write adds to a packet (R173). -/
def halfOf (data : List Byte) : Half := BitVec.ofNat 16 (leValue data)

/-- `zext_32(value(data))`, what a write stores in a DMA register (R55). -/
def wordOf (data : List Byte) : Word := BitVec.ofNat 32 (leValue data)

/-- Bits 7:0 of a 16-bit value. -/
def lowByte (v : Half) : Byte := v.extractLsb' 0 8

/-- Bits 15:8 of a 16-bit value. -/
def highByte (v : Half) : Byte := v.extractLsb' 8 8

/-- `v` with bits 7:0 replaced (R129). -/
def withLow (v : Half) (b : Byte) : Half := highByte v ++ b

/-- `v` with bits 15:8 replaced (R131). -/
def withHigh (v : Half) (b : Byte) : Half := b ++ lowByte v

/-! ## The protection window (R37, decision D38) -/

/-- TOPF, bits 14:8 of GDAPRO -/
def topField (gdapro : Word) : BitVec 7 := gdapro.extractLsb' 8 7
/-- BOTF, bits 6:0 of GDAPRO -/
def botField (gdapro : Word) : BitVec 7 := gdapro.extractLsb' 0 7
/-- PROT_TOP, the low end of the window -/
def protTop (gdapro : Word) : Word := 0x08000000#32 ||| ((topField gdapro).setWidth 32 <<< 20)
/-- PROT_BOT, the high end of the window -/
def protBot (gdapro : Word) : Word := 0x080FFFFF#32 ||| ((botField gdapro).setWidth 32 <<< 20)
/-- Whether the drain may write a guest address: `PROT_TOP <= a <= PROT_BOT`, unsigned (R64, R245). -/
def inWindow (gdapro a : Word) : Bool :=
  decide ((protTop gdapro).toNat ≤ a.toNat) && decide (a.toNat ≤ (protBot gdapro).toNat)

/-- The bits of GDAPRO that are stored (R37). -/
def gdaproMask : Word := 0x00007F7F#32

/-! ## SET_FEATURES (R156, decision D14) -/

/-- The transfer-mode table after SET_FEATURES with sector count `sc`: the five patterns in the
order of R156; the entry receives the bits outside the mask; no match leaves the table. -/
def transferModes (sc : Byte) (t : TransferModes) : TransferModes :=
  if sc &&& 0xFE#8 = 0x00#8 then { t with pioDflt := sc &&& 0x01#8 }
  else if sc &&& 0xF8#8 = 0x08#8 then { t with pioFlow := sc &&& 0x07#8 }
  else if sc &&& 0xF8#8 = 0x10#8 then { t with swDma := sc &&& 0x07#8 }
  else if sc &&& 0xF8#8 = 0x20#8 then { t with mwDma := sc &&& 0x07#8 }
  else if sc &&& 0xF8#8 = 0x18#8 then { t with pseudoDma := sc &&& 0x07#8 }
  else t

/-! ## REQ_MODE and REQ_ERROR -/

/-- `first = min(start, 31)` (R176) -/
def modeFirst (start : Byte) : Nat := min start.toNat 31

/-- `last = min(start + len - 1, 31)`, for `len` not 0 (R176) -/
def modeLast (start len : Byte) : Nat := min (start.toNat + len.toNat - 1) 31

/-- `n = last - first + 1` (R176) -/
def modeCount (start len : Byte) : Nat := modeLast start len - modeFirst start + 1

/-- `block[first..last]` for `n` bytes from `first` (R103) -/
def blockRange (block : List Byte) (first n : Nat) : List Byte := (block.drop first).take n

/-- The ten bytes of the REQ_ERROR response (R104, decision D25) -/
def errorResponse (sense : BitVec 4) (asc : Byte) : List Byte :=
  [0xF0#8, 0x00#8, sense.setWidth 8, 0x00#8, 0x00#8, 0x00#8, 0x00#8, 0x00#8, asc, 0x00#8]

end Sys2Proof.Machine
end

