-- ==== Sys2Proof/Machine/Ops.lean ====
section
/-!
DEFINITION. The named operations the meanings share: the buffer queue (spec/10_state.md R27 to R30),
guest memory (spec/20_memory.md R59), the mount (R60), the interrupt (spec/60_exceptions.md R266,
R267), the announcement of data (spec/42_packet_commands.md R170), replies to reads, and how a
rejected access ends (R112, R113, R261).
-/

namespace Sys2Proof.Machine

/-! ## Outcomes -/

/-- Go on with the next state, if there is one. -/
def andThen (o : Out) (f : State → Out) : Out :=
  match o with
  | .next s => f s
  | .fault e => .fault e
  | .refused r => .refused r

/-! ## Faults (R260, decision D47) -/

/-- The ordinal of a fault kind. -/
def Fault.code : Fault → Nat
  | .unimplementedAccess _ _ => 1
  | .unimplementedCommand _ => 2
  | .unimplementedPacket _ => 3
  | .unimplementedFeature _ => 4
  | .allocationFailure => 5

/-- What equality of faults is judged on: kind, address, command byte and opcode, not the
description (R260). -/
def Fault.same (a b : Fault) : Bool :=
  match a, b with
  | .unimplementedAccess _ x, .unimplementedAccess _ y => x == y
  | .unimplementedCommand x, .unimplementedCommand y => x == y
  | .unimplementedPacket x, .unimplementedPacket y => x == y
  | .unimplementedFeature _, .unimplementedFeature _ => true
  | .allocationFailure, .allocationFailure => true
  | _, _ => false

/-- How an input that decodes to no instruction ends (R112, R113, R157, R184, R95). The fault is
the whole effect: nothing is saved, no state is written, control goes nowhere (R262, R271). -/
def rejectOutcome : Reject → Out
  | .truncated => .refused .notATransaction
  | .notATransaction => .refused .notATransaction
  | .unmapped a => .fault (.unimplementedAccess .noDescriptor a)
  | .tooLong a => .fault (.unimplementedAccess .tooLong a)
  | .unknownCommand cmd => .fault (.unimplementedCommand cmd)
  | .unknownPacket op => .fault (.unimplementedPacket op)

/-- What the host makes of the end of an access whose fault left the block in `s`
(HOST_FAULT_POLICY, R271, U7). The block's side is the same whatever the host does: delivery writes
nothing (R262). Under `halt` every fault is terminal. Under another policy a run goes on after
UnimplementedAccess, for which the spec fixes the state ("no register state changes", R114); after
any other fault the state is unspecified and "no access after a fault has a meaning" (R271, U8), so
the run ends there under every policy (notes/assumptions/35.md). -/
def underFaultPolicy (s : State) (o : Out) : Out :=
  match o, s.cfg.hostFaultPolicy with
  | .fault (.unimplementedAccess what a), .halt => .fault (.unimplementedAccess what a)
  | .fault (.unimplementedAccess _ _), .log => .next s
  | .fault (.unimplementedAccess _ _), .guestVisible => .next s
  | .fault f, _ => .fault f
  | .refused r, _ => .refused r
  | .next t, _ => .next t

/-! ## The buffer queue (R26 to R30) -/

/-- Bytes of a node still to be consumed. -/
def Node.left (n : Node) : Nat := n.data.length - n.cursor

/-- Q.bytes() (R30) -/
def queueBytes (q : List Node) : Nat := (q.map Node.left).sum

/-- Q.empty() (R30) -/
def queueEmpty (q : List Node) : Bool := queueBytes q == 0

/-- Q.push(b) (R27): `none` is AllocationFailure. -/
def queuePush (maxNodes : Option Nat) (q : List Node) (b : List Byte) : Option (List Node) :=
  match maxNodes with
  | none => some (q ++ [⟨0, b⟩])
  | some m => if m ≤ q.length then none else some (q ++ [⟨0, b⟩])

/-- Q.consume_byte() (R29) -/
def consumeByte : List Node → Option (Byte × List Node)
  | [] => none
  | n :: ns =>
    let b := n.data.getD n.cursor 0x00#8
    if n.data.length ≤ n.cursor + 1 then some (b, ns)
    else some (b, { n with cursor := n.cursor + 1 } :: ns)

/-- At most `k` bytes from the front of the queue, one at a time, and the queue left. -/
def consumeBytes : Nat → List Node → List Byte × List Node
  | 0, q => ([], q)
  | k + 1, q =>
    match consumeByte q with
    | none => ([], q)
    | some (b, q') => (b :: (consumeBytes k q').1, (consumeBytes k q').2)

/-- Q.clear() (R28) -/
def State.clearQueue (s : State) : State := { s with q := [] }

/-- Q.push(b) on the machine; AllocationFailure ends the access. -/
def State.push (s : State) (b : List Byte) : Out :=
  match queuePush s.cfg.queueMaxNodes s.q b with
  | none => .fault .allocationFailure
  | some q => .next { s with q := q }

/-- "if n != 0 then Q.push": a zero-length node is never queued (R26 d, decision D20). -/
def State.pushSome (s : State) (b : List Byte) : Out :=
  match b with
  | [] => .next s
  | _ :: _ => s.push b

/-! ## Guest memory (R59) -/

/-- What an address that the block has not written reads as: no value. The block never reads guest
memory and the spec says nothing of its contents (notes/assumptions/12.md). -/
def Memory.unlisted : Option Byte := none

/-- The byte the block has last written at an address. -/
def Memory.read (m : Memory) (a : Nat) : Option Byte :=
  match m with
  | [] => Memory.unlisted
  | (k, v) :: rest => if k = a then some v else Memory.read rest a

/-- MemWrite(a, 1, b) (R59): the canonical form is kept. -/
def Memory.write (m : Memory) (a : Nat) (b : Byte) : Memory :=
  match m with
  | [] => [(a, b)]
  | (k, v) :: rest =>
    if a < k then (a, b) :: (k, v) :: rest
    else if a = k then (a, b) :: rest
    else (k, v) :: Memory.write rest a b

/-- The canonical form: addresses strictly rising, and 32 bits wide (R50). No entry equals what an
unlisted address reads as, since that is no byte. -/
abbrev Memory.wf (m : Memory) : Prop :=
  m.Pairwise (fun x y => x.1 < y.1) ∧ ∀ x ∈ m, x.1 < 2 ^ 32

/-- The writes of a drain (R244, R245): source byte k goes to `start + k` modulo 2^32 if that lies
in the window, and is dropped otherwise. -/
def writeRun (gdapro : Word) : Word → List Byte → Memory → Memory
  | _, [], m => m
  | a, b :: bs, m =>
    writeRun gdapro (a + 1) bs (if inWindow gdapro a then m.write a.toNat b else m)

/-! ## The mount (R60, decision D53) -/

/-- MountCheck() -/
def mountCheck (m : Mount) : Bool := m.present

/-- MountReadSector(fad): `none` is a failure. -/
def mountReadSector (m : Mount) (fad : Nat) : Option (List Byte) :=
  (m.sectors.find? fun p => p.1 == fad).map Prod.snd

/-- MountToc(session) -/
def mountToc (m : Mount) (session : BitVec 1) : List Byte :=
  if session = 0#1 then m.toc0 else m.toc1

/-! ## The interrupt (R266, R267) -/

/-- RaiseIrqIfUnmasked() -/
def State.raiseIrqIfUnmasked (s : State) : State := if s.nIEN then s else { s with irq := true }

/-- ClearIrq() -/
def State.clearIrq (s : State) : State := { s with irq := false }

/-- "if NODATA_PKT_IRQ then RaiseIrqIfUnmasked()" (R175, R182, decision D31) -/
def State.raiseIrqIfNoDataIrq (s : State) : State :=
  if s.cfg.nodataPktIrq then s.raiseIrqIfUnmasked else s

/-- "if DMA_END_IRQ names a line then interrupt_raise(DMA_END_IRQ)", not masked (R246) -/
def State.raiseDmaEnd (s : State) : State :=
  if s.cfg.dmaEndIrq.isSome then { s with dmaEndLine := true } else s

/-- AnnounceDataIn() (R170): DRQ, the IO phase, and the interrupt. -/
def State.announceDataIn (s : State) : State :=
  ((s.setDrq true).setReason false true).raiseIrqIfUnmasked

/-! ## Reads and the packet phase -/

/-- The result of a read of length `len` from a register of value `v` (R55). -/
def State.reply (s : State) (v : Word) (len : Nat) : State :=
  { s with readData := leBytes len v.toNat }

/-- "pstate <- NORMAL" at packet completion, before the packet's own effect (R174). -/
def State.packetDone (s : State) : State := { s with pstate := .normal }

/-- The gate of R150: a command write outside NORMAL is decoded in every state under `process`, and
has no meaning under `refuse` (decision D16). -/
def commandGate (s : State) (k : State → Out) : Out :=
  match s.pstate, s.cfg.cmdInNonNormal with
  | .normal, _ => k s
  | _, .process => k s
  | _, .refuse => .refused .commandInNonNormal

end Sys2Proof.Machine
end

