-- ==== Sys2Proof/Machine/AtaCommands.lean ====
section
/-!
DEFINITION. The ATA commands (spec/41_ata_commands.md R150 to R157).
-/

namespace Sys2Proof.Machine

/-- NOP (R153): no state change. -/
def execNop (s : State) : Out := commandGate s fun s => .next s

/-- RESET (R151): no state change; it is not a reset (R300). -/
def execReset (s : State) : Out := commandGate s fun s => .next s

/-- DIAGNOSTIC (R152): no state change. -/
def execDiagnostic (s : State) : Out := commandGate s fun s => .next s

/-- PACKET (R154). -/
def execPacket (s : State) : Out :=
  commandGate s fun s =>
    .next { (((s.setCheck false).setReason true false).setDrq true) with
      pcnt := 0, pstate := .awaitingPacket }

/-- IDENTIFY (R155). -/
def execIdentify (s : State) : Out :=
  commandGate s fun s =>
    andThen (((s.setBsy false).setDrq true).clearQueue.push s.cfg.identBlock) fun s =>
      .next { s.raiseIrqIfUnmasked with pstate := .normal }

/-- SET_FEATURES (R156); `FEATURES[7]` is ignored. -/
def execSetFeatures (s : State) : Out :=
  commandGate s fun s =>
    if s.features &&& 0x7F#8 = 3#8 then .next { s with tmode := transferModes s.sectcnt s.tmode }
    else .next s

/-- The meaning of the command a decoded byte names (R150). -/
def runCommand (op : AtaOp) (s : State) : Out :=
  match op with
  | .nop => execNop s
  | .reset => execReset s
  | .diagnostic => execDiagnostic s
  | .packet => execPacket s
  | .identify => execIdentify s
  | .setFeatures => execSetFeatures s

/-- A command write (R150): decode, then the command; an unrecognised one faults (R157). -/
def commandWrite (cmd : Byte) (s : State) : Out :=
  commandGate s fun s =>
    match s.cfg.ataOp cmd with
    | none => rejectOutcome (.unknownCommand cmd)
    | some op => runCommand op s

end Sys2Proof.Machine
end

