-- ==== Sys2Proof/Machine/PacketCommands.lean ====
section
/-!
DEFINITION. The packet commands (spec/42_packet_commands.md R170, R174 to R184). A packet command
runs in a state whose packet is complete; its meaning includes the transition of R174 to NORMAL.
-/

namespace Sys2Proof.Machine

/-- The common end of the commands that queue a response: clear, push, announce (R28, R170). -/
def respond (s : State) (b : List Byte) : Out :=
  andThen (s.clearQueue.pushSome b) fun s => .next s.announceDataIn

/-- TEST_UNIT_READY (R175). -/
def execTestUnitReady (s : State) : Out :=
  let t := s.packetDone.noDataDone
  .next (if mountCheck s.cfg.mount then (t.setCheck false).clearError.raiseIrqIfNoDataIrq
    else { ((t.setCheck true).setSense s.cfg.senseNotReady) with
      asc := s.cfg.ascNoDisc }.raiseIrqIfNoDataIrq)

/-- REQ_MODE (R176); BYTECNT is written only when `len` is not 0. -/
def execReqMode (start len : Byte) (s : State) : Out :=
  let t := s.packetDone
  if len = 0#8 then respond t []
  else
    let n := modeCount start len
    respond { t with bytecnt := BitVec.ofNat 16 n }
      (blockRange s.cfg.modeBlock (modeFirst start) n)

/-- SET_MODE (R177): the feature check comes before any write (R270). -/
def execSetMode (s : State) : Out :=
  if s.featDma then .fault (.unimplementedFeature .setModeDma)
  else .next { ((s.setReason false true).setDrq true) with
    pcnt := s.bytecnt.toNat, pstate := .awaitingModeData }

/-- REQ_ERROR (R179). -/
def execReqError (len : Byte) (s : State) : Out :=
  respond s.packetDone ((errorResponse s.sense s.asc).take (min len.toNat errRespLen))

/-- READ_TOC (R180). -/
def execReadToc (session : BitVec 1) (alloc : Half) (s : State) : Out :=
  respond s.packetDone
    ((mountToc s.cfg.mount session).take (min alloc.toNat s.cfg.tocMax))

/-- How the sector loop of READ ends. -/
inductive Sectors where
  /-- every sector was read and queued -/
  | all (q : List Node)
  /-- a sector read failed; the queue holds those before it -/
  | failed (q : List Node)
  /-- a push failed -/
  | exhausted

/-- The sector loop of READ (R181): `n` sectors from frame address `fad` on. -/
def readSectors (c : Config) : Nat → Nat → List Node → Sectors
  | 0, _, q => .all q
  | n + 1, fad, q =>
    match mountReadSector c.mount fad with
    | none => .failed q
    | some b =>
      match queuePush c.queueMaxNodes q b with
      | none => .exhausted
      | some q' => readSectors c n (fad + 1) q'

/-- READ (R181); `exp` is ignored. -/
def execRead (sel : BitVec 4) (ptype : BitVec 1) (fad cnt : BitVec 24) (s : State) : Out :=
  if sel ≠ 2#4 then .fault (.unimplementedFeature .readSelection)
  else if ptype ≠ 0#1 then .fault (.unimplementedFeature .readAddressing)
  else
    match readSectors s.cfg cnt.toNat fad.toNat [] with
    | .exhausted => .fault .allocationFailure
    | .failed q =>
      .next (({ s.packetDone with q := q }.setSense s.cfg.senseIllegalRequest).setCheck true)
    | .all q =>
      let t := { s.packetDone with q := q }
      .next (if s.featDma then t else t.announceDataIn)

/-- START_DISK (R182). -/
def execStartDisk (s : State) : Out :=
  .next (s.packetDone.noDataDone.setCheck false).clearError.raiseIrqIfNoDataIrq

/-- VENDOR_71 (R183). -/
def execVendor71 (s : State) : Out :=
  respond { s.packetDone with bytecnt := BitVec.ofNat 16 s.cfg.pkt71Blob.length } s.cfg.pkt71Blob

/-- The meaning of the packet command a decoded packet names (R174). -/
def runPacket (op : PktOp) (p : Packet) (s : State) : Out :=
  match op with
  | .testUnitReady => execTestUnitReady s
  | .reqMode => execReqMode p.reqModeStart p.reqModeLen s
  | .setMode => execSetMode s
  | .reqError => execReqError p.reqErrorLen s
  | .readToc => execReadToc p.tocSession p.tocAlloc s
  | .read => execRead p.readSel p.readPtype p.readFad p.readCnt s
  | .startDisk => execStartDisk s
  | .vendor71 => execVendor71 s

/-- Packet completion and dispatch (R174); an unrecognised opcode faults (R184). -/
def dispatchPacket (s : State) : Out :=
  match s.cfg.pktOp s.pkt[0] with
  | none => rejectOutcome (.unknownPacket s.pkt[0])
  | some op => runPacket op s.pkt s

end Sys2Proof.Machine
end

