-- ==== Sys2Proof/Machine/DataPort.lean ====
section
/-!
DEFINITION. The data register: its write in each protocol state (spec/42_packet_commands.md R171 to
R174, R178) and its read, the PIO drain (spec/43_pio_data_read.md R210 to R215).
-/

namespace Sys2Proof.Machine

/-- The two packet bytes and the counter of R173. PCNT is 0 to 10 and even in every reachable state;
elsewhere a byte outside 0..11 is not stored (notes/assumptions/18.md). -/
def appendPacketWord (w : Half) (s : State) : State :=
  { s with
    pkt := (s.pkt.setIfInBounds s.pcnt.toNat (lowByte w)).setIfInBounds
      (s.pcnt.toNat + 1) (highByte w)
    pcnt := s.pcnt + 2 }

/-- Packet accumulation (R173). -/
def packetWrite (w : Half) (s : State) : Out :=
  let t := appendPacketWord w s
  if t.pcnt = (pktLen : Nat) then dispatchPacket t else .next t

/-- Mode-data input (R178): the bytes are counted and discarded. The subtraction is on integers and
exact (R185), also at PCNT = 0 (R177, notes/assumptions/18.md). -/
def modeDataWrite (len : Nat) (s : State) : Out :=
  let t := { s with pcnt := s.pcnt - len }
  if t.pcnt ≤ 0 then .next { t.setDrq false with pstate := .normal }.raiseIrqIfUnmasked
  else .next t

/-- `W DATA` (R121, R171); in NORMAL the data is discarded (R172). -/
def execWData (data : List Byte) (s : State) : Out :=
  match s.pstate with
  | .normal => .next s
  | .awaitingPacket => packetWrite (halfOf data) s
  | .awaitingModeData => modeDataWrite data.length s

/-- The bytes of a data read: those consumed, then zeros (R211). -/
def zeroFill (len : Nat) (b : List Byte) : List Byte := b ++ List.replicate (len - b.length) 0x00#8

/-- Completion of a PIO transfer (R212). -/
def State.pioDone (s : State) : State := s.transferDone.raiseIrqIfUnmasked

/-- `R DATA` (R120, R210). -/
def execRData (len : Nat) (s : State) : Out :=
  let r := consumeBytes len s.q
  let t := { s with q := r.2, readData := zeroFill len r.1 }
  .next (if r.1 ≠ [] ∧ queueEmpty r.2 then t.pioDone else t)

end Sys2Proof.Machine
end

