-- ==== Sys2Proof/Machine/Dma.lean ====
section
/-!
DEFINITION. The DMA registers and the drain (spec/44_dma.md R230 to R248).
-/

namespace Sys2Proof.Machine

/-- `R GDAPRO` (R230): the stored fields. -/
def execRGdapro (len : Nat) (s : State) : Out := .next (s.reply s.gdapro len)

/-- `W GDAPRO` (R231): stored only with the security code in bits 31:16, ignored otherwise. -/
def execWGdapro (data : List Byte) (s : State) : Out :=
  if (wordOf data).extractLsb' 16 16 = s.cfg.gdaproCode then
    .next { s with gdapro := wordOf data &&& gdaproMask }
  else .next s

/-- `R GDSTAR` (R232). -/
def execRGdstar (len : Nat) (s : State) : Out := .next (s.reply s.gdstar len)

/-- `W GDSTAR` (R233). -/
def execWGdstar (data : List Byte) (s : State) : Out := .next { s with gdstar := wordOf data }

/-- `R GDLEN` (R234). -/
def execRGdlen (len : Nat) (s : State) : Out := .next (s.reply s.gdlen len)

/-- `W GDLEN` (R235). -/
def execWGdlen (data : List Byte) (s : State) : Out := .next { s with gdlen := wordOf data }

/-- `R GDDIR` (R236). -/
def execRGddir (len : Nat) (s : State) : Out := .next (s.reply s.gddir len)

/-- `W GDDIR` (R237). -/
def execWGddir (data : List Byte) (s : State) : Out := .next { s with gddir := wordOf data }

/-- `R GDEN` (R238). -/
def execRGden (len : Nat) (s : State) : Out := .next (s.reply s.gden len)

/-- `W GDEN` (R239). -/
def execWGden (data : List Byte) (s : State) : Out := .next { s with gden := wordOf data }

/-- `R GDST` (R240): always 0. -/
def execRGdst (len : Nat) (s : State) : Out := .next (s.reply 0#32 len)

/-- `total = min(GDLEN, Q.bytes())`, the bytes a drain takes (R244, R247). -/
def drainTotal (s : State) : Nat := min s.gdlen.toNat (queueBytes s.q)

/-- Drain() (R244): the bytes leave the queue in order and go to guest memory through the window. -/
def drain (s : State) : State :=
  let r := consumeBytes (drainTotal s) s.q
  { s with q := r.2, gmem := writeRun s.gdapro s.gdstar r.1 s.gmem }

/-- Complete() (R246). -/
def drainComplete (total : Nat) (s : State) : State :=
  ({ s with gdlend := BitVec.ofNat 32 total }.transferDone.raiseIrqIfUnmasked).raiseDmaEnd

/-- `W GDST` (R241): a nonzero value starts the drain if it is enabled; the trigger self-clears. -/
def execWGdst (data : List Byte) (s : State) : Out :=
  if wordOf data = 0#32 then .next s
  else if s.dmaEnabled then
    if s.dmaToMemory then .next { drainComplete (drainTotal s) (drain s) with gdst := 0#32 }
    else .fault (.unimplementedFeature .dmaDirection)
  else .next { s with gdst := 0#32 }

/-- `R GDLEND` (R242). -/
def execRGdlend (len : Nat) (s : State) : Out := .next (s.reply s.gdlend len)

/-- `W GDLEND` (R243): ignored. -/
def execWGdlend (_data : List Byte) (s : State) : Out := .next s

end Sys2Proof.Machine
end

