-- ==== Sys2Proof/Machine/TaskFile.lean ====
section
/-!
DEFINITION. The reads and writes of the task-file registers other than DATA
(spec/40_register_dispatch.md R116 to R119, R122 to R133). The optional hook of R115 writes no state
and is left out (notes/assumptions/37.md).
-/

namespace Sys2Proof.Machine

/-- A reply with an 8-bit register, zero-extended to 32 bits (R55). -/
def State.replyByte (s : State) (v : Byte) (len : Nat) : State := s.reply (v.setWidth 32) len

/-- `R STATUS_COMMAND` (R116): STATUS, and the interrupt line is cleared. -/
def execRStatusCommand (len : Nat) (s : State) : Out := .next (s.replyByte s.status len).clearIrq

/-- `W STATUS_COMMAND` (R117): the low byte is the command. -/
def execWStatusCommand (data : List Byte) (s : State) : Out := commandWrite (byteOf data) s

/-- `R ALTSTAT_DEVCTRL` (R118): STATUS, without side effect. -/
def execRAltstatDevctrl (len : Nat) (s : State) : Out := .next (s.replyByte s.status len)

/-- `W ALTSTAT_DEVCTRL` (R119). -/
def execWAltstatDevctrl (data : List Byte) (s : State) : Out :=
  .next { s with devctrl := byteOf data }

/-- `R ERROR_FEATURES` (R122): ERROR as a 32-bit word (R12). -/
def execRErrorFeatures (len : Nat) (s : State) : Out := .next (s.reply s.errorWord len)

/-- `W ERROR_FEATURES` (R123): FEATURES. -/
def execWErrorFeatures (data : List Byte) (s : State) : Out :=
  .next { s with features := byteOf data }

/-- `R INTREASON_SECTCNT` (R124): INTREASON. -/
def execRIntreasonSectcnt (len : Nat) (s : State) : Out := .next (s.replyByte s.intreason len)

/-- `W INTREASON_SECTCNT` (R125): SECTCNT. -/
def execWIntreasonSectcnt (data : List Byte) (s : State) : Out :=
  .next { s with sectcnt := byteOf data }

/-- `R SECTNUM` (R126). -/
def execRSectnum (len : Nat) (s : State) : Out := .next (s.replyByte s.sectnum len)

/-- `W SECTNUM` (R127). -/
def execWSectnum (data : List Byte) (s : State) : Out := .next { s with sectnum := byteOf data }

/-- `R BYTECNT_LO` (R128). -/
def execRBytecntLo (len : Nat) (s : State) : Out := .next (s.replyByte (lowByte s.bytecnt) len)

/-- `W BYTECNT_LO` (R129). -/
def execWBytecntLo (data : List Byte) (s : State) : Out :=
  .next { s with bytecnt := withLow s.bytecnt (byteOf data) }

/-- `R BYTECNT_HI` (R130). -/
def execRBytecntHi (len : Nat) (s : State) : Out := .next (s.replyByte (highByte s.bytecnt) len)

/-- `W BYTECNT_HI` (R131). -/
def execWBytecntHi (data : List Byte) (s : State) : Out :=
  .next { s with bytecnt := withHigh s.bytecnt (byteOf data) }

/-- `R DRVSEL` (R132). -/
def execRDrvsel (len : Nat) (s : State) : Out := .next (s.replyByte s.drvsel len)

/-- `W DRVSEL` (R133). -/
def execWDrvsel (data : List Byte) (s : State) : Out := .next { s with drvsel := byteOf data }

end Sys2Proof.Machine
end

