-- ==== Sys2Proof/Machine/Dispatch.lean ====
section
/-!
DEFINITION. One arm per constructor of `Instr`: the handlers of the register table
(spec/40_register_dispatch.md R110, R111), the ATA commands and the packet commands.
-/

namespace Sys2Proof.Machine

def exec (i : Instr) (s : State) : Host.Outcome State Fault Refusal :=
  match i with
  | .rStatusCommand len => Sys2Proof.Machine.execRStatusCommand len s
  | .wStatusCommand data => Sys2Proof.Machine.execWStatusCommand data s
  | .rAltstatDevctrl len => Sys2Proof.Machine.execRAltstatDevctrl len s
  | .wAltstatDevctrl data => Sys2Proof.Machine.execWAltstatDevctrl data s
  | .rData len => Sys2Proof.Machine.execRData len s
  | .wData data => Sys2Proof.Machine.execWData data s
  | .rErrorFeatures len => Sys2Proof.Machine.execRErrorFeatures len s
  | .wErrorFeatures data => Sys2Proof.Machine.execWErrorFeatures data s
  | .rIntreasonSectcnt len => Sys2Proof.Machine.execRIntreasonSectcnt len s
  | .wIntreasonSectcnt data => Sys2Proof.Machine.execWIntreasonSectcnt data s
  | .rSectnum len => Sys2Proof.Machine.execRSectnum len s
  | .wSectnum data => Sys2Proof.Machine.execWSectnum data s
  | .rBytecntLo len => Sys2Proof.Machine.execRBytecntLo len s
  | .wBytecntLo data => Sys2Proof.Machine.execWBytecntLo data s
  | .rBytecntHi len => Sys2Proof.Machine.execRBytecntHi len s
  | .wBytecntHi data => Sys2Proof.Machine.execWBytecntHi data s
  | .rDrvsel len => Sys2Proof.Machine.execRDrvsel len s
  | .wDrvsel data => Sys2Proof.Machine.execWDrvsel data s
  | .rGdapro len => Sys2Proof.Machine.execRGdapro len s
  | .wGdapro data => Sys2Proof.Machine.execWGdapro data s
  | .rGdstar len => Sys2Proof.Machine.execRGdstar len s
  | .wGdstar data => Sys2Proof.Machine.execWGdstar data s
  | .rGdlen len => Sys2Proof.Machine.execRGdlen len s
  | .wGdlen data => Sys2Proof.Machine.execWGdlen data s
  | .rGddir len => Sys2Proof.Machine.execRGddir len s
  | .wGddir data => Sys2Proof.Machine.execWGddir data s
  | .rGden len => Sys2Proof.Machine.execRGden len s
  | .wGden data => Sys2Proof.Machine.execWGden data s
  | .rGdst len => Sys2Proof.Machine.execRGdst len s
  | .wGdst data => Sys2Proof.Machine.execWGdst data s
  | .rGdlend len => Sys2Proof.Machine.execRGdlend len s
  | .wGdlend data => Sys2Proof.Machine.execWGdlend data s
  | .nop => Sys2Proof.Machine.execNop s
  | .reset => Sys2Proof.Machine.execReset s
  | .diagnostic => Sys2Proof.Machine.execDiagnostic s
  | .packet => Sys2Proof.Machine.execPacket s
  | .identify => Sys2Proof.Machine.execIdentify s
  | .setFeatures => Sys2Proof.Machine.execSetFeatures s
  | .testUnitReady => Sys2Proof.Machine.execTestUnitReady s
  | .reqMode start len => Sys2Proof.Machine.execReqMode start len s
  | .setMode => Sys2Proof.Machine.execSetMode s
  | .reqError len => Sys2Proof.Machine.execReqError len s
  | .readToc session alloc => Sys2Proof.Machine.execReadToc session alloc s
  | .read sel _ ptype fad cnt => Sys2Proof.Machine.execRead sel ptype fad cnt s
  | .startDisk => Sys2Proof.Machine.execStartDisk s
  | .vendor71 => Sys2Proof.Machine.execVendor71 s

end Sys2Proof.Machine
end

