-- ==== Sys2Proof/Machine/Step.lean ====
section
/-!
DEFINITION. One step of the machine: one access of the bus master (spec/00_scope.md R4,
spec/40_register_dispatch.md R110, R111).
-/

namespace Sys2Proof.Machine

/-- With no access pending the block does nothing (R302). Otherwise the oldest access is taken, the
dispatcher's checks are made, and the handler runs; a failed check ends the access before any
handler (R114), and the host's policy says whether the run goes on (R271). -/
def step (s : State) : Host.Outcome State Fault Refusal :=
  match s.pending with
  | [] => .next s
  | a :: rest =>
    match decodeAccess s.cfg a with
    | .error e => underFaultPolicy { s with pending := rest } (rejectOutcome e)
    | .ok i => exec i { s with pending := rest }

/-- The state with an access as the one the next step takes. -/
def State.withAccess (s : State) (a : Access) : State :=
  { s with pending := a :: s.pending.drop 1 }

/-- The bus access that stands for a table word's bytes; bytes that are no access become one the bus
cannot issue, which the step refuses. -/
def tableAccess (bs : List Byte) : Access :=
  match parseAccess bs with
  | .ok (a, _) => a
  | .error _ => .read 0#32 0

/-- The state whose next step runs the instruction of a table word (`decodeTableWord`). A bus
transaction becomes the pending access. An ATA command is the byte of a 4-byte write to
STATUS_COMMAND (`CMD`, R101). A packet is what SENDPKT (R101) leaves before its last write: PKT
holds its first ten bytes, PCNT is 10 in AWAITING_PACKET, and the pending access writes the last
word to DATA. -/
def State.withFetchWord (s : State) (nbits w : Nat) : State :=
  match tableFormat nbits with
  | .bus => s.withAccess (tableAccess (tableBytes nbits w))
  | .ata =>
    s.withAccess (.write (s.cfg.addrOf .statusCommand) (tableBytes nbits w ++ [0#8, 0#8, 0#8]))
  | .pkt =>
    match parsePacket (tableBytes nbits w) with
    | .error _ => s.withAccess (.read 0#32 0)
    | .ok (p, _) =>
      { s.withAccess (.write (s.cfg.addrOf .data) [p[10], p[11]]) with
        pkt := (p.set 10 s.pkt[10]).set 11 s.pkt[11], pcnt := 10, pstate := .awaitingPacket }

end Sys2Proof.Machine
end

