-- ==== Sys2Proof/Safety.lean ====
section
/-!
DEFINITION. The terms the claims use: the bytes a queue holds (spec/10_state.md R26), what holds of
every reachable state (`State.Inv`), when a command write is decoded (spec/41_ata_commands.md R150),
and the protocol transitions of spec/10_state.md R22.
-/

namespace Sys2Proof.Machine

/-- The bytes still to be consumed, front first: the queue "as a plain byte sequence" (R26). -/
def queueData (q : List Node) : List Byte := q.flatMap fun n => n.data.drop n.cursor

/-- The invariants of R26: (a) every node has `cursor < len`, (b) only the front node may have a
cursor above 0, (d) no node is empty (by (a)), and no node exceeds its capacity. -/
def QueueWf (cap : Nat) (q : List Node) : Prop :=
  (∀ n ∈ q, n.cursor < n.data.length ∧ n.data.length ≤ cap) ∧ ∀ n ∈ q.tail, n.cursor = 0

/-- What holds between accesses in every reachable state. -/
structure State.Inv (s : State) : Prop where
  /-- the parameters make sense (R9) -/
  cfg : s.cfg.Wf
  /-- STATUS: BSY, DF, DSC, CORR and bit 1 are 0 for ever (R11) -/
  status : s.status &&& 0xB6#8 = 0#8
  /-- ERROR: MCR, ABRT, EOMF and ILI are 0 for ever (R12) -/
  error : s.mcr = false ∧ s.abrt = false ∧ s.eomf = false ∧ s.ili = false
  /-- INTREASON: bits 7:2 are 0 for ever (R17) -/
  intreason : s.intreason &&& 0xFC#8 = 0#8
  /-- the trigger is 0 between accesses (R35) -/
  gdst : s.gdst = 0#32
  /-- only the two fields of GDAPRO are stored (R37) -/
  gdapro : s.gdapro &&& 0x00007F7F#32 = s.gdapro
  /-- the queue's form (R26) -/
  queue : QueueWf s.cfg.nodeCap s.q
  /-- the queue's bound (R27) -/
  queueMax : ∀ m, s.cfg.queueMaxNodes = some m → s.q.length ≤ m
  /-- "an even number 0 to 10 between accesses" (R23) -/
  packet : s.pstate = .awaitingPacket → 0 ≤ s.pcnt ∧ s.pcnt ≤ 10 ∧ s.pcnt % 2 = 0
  /-- the mode-data bytes remaining (R23) -/
  modeData : s.pstate = .awaitingModeData → 0 ≤ s.pcnt ∧ s.pcnt ≤ 65535
  /-- guest memory is in its canonical form -/
  gmem : s.gmem.wf
  /-- the second line is never raised where DMA_END_IRQ names none (R38, R246) -/
  dmaEnd : s.cfg.dmaEndIrq = none → s.dmaEndLine = false

/-- A command write is decoded in this state (R150): it is NORMAL, or CMD_IN_NON_NORMAL is
`process`. -/
def State.CommandOpen (s : State) : Prop := s.pstate = .normal ∨ s.cfg.cmdInNonNormal = .process

/-- An access the bus can issue (R54) to the register `r`, not longer than it declares (R113). -/
def AccessTo (c : Config) (a : Access) (r : Reg) : Prop :=
  a.addr = c.addrOf r ∧ c.lenOk a.len = true

/-- A data write that completes a packet (R173, R174): the block awaits the last two bytes, and `p`
is the packet with them. -/
def CompletesPacket (s : State) (d : List Byte) (p : Packet) : Prop :=
  s.pstate = .awaitingPacket ∧ s.pcnt = 10 ∧
    p = (s.pkt.set 10 (BitVec.ofNat 8 (leValue d))).set 11 (BitVec.ofNat 8 (leValue d / 256))

/-! ## Results and frames

Each says how `t` differs from `s` in the registers it names; a statement adds that nothing else
differs. -/

/-- `t` is `s` but for the reply of `len` bytes, the low bytes of the value `v` (R55). -/
def Replied (s t : State) (v len : Nat) : Prop :=
  t = { s with readData := t.readData } ∧ t.readData.length = len ∧
    leValue t.readData = v % 256 ^ len

/-- AnnounceDataIn() (R170): DRQ is set, the reason is IO without COD, the interrupt is raised if
unmasked. -/
def DataAnnounced (s t : State) : Prop :=
  t.drq = true ∧ (∀ j, j ≠ 3 → t.status.getLsbD j = s.status.getLsbD j) ∧
  t.io = true ∧ t.cod = false ∧
  (∀ j, j ≠ 0 → j ≠ 1 → t.intreason.getLsbD j = s.intreason.getLsbD j) ∧
  t.irq = (s.irq || !s.nIEN)

/-- The flags of a completed transfer (R212, R246): DRQ and BSY cleared, DRDY set, the interrupt
raised if unmasked. -/
def TransferCompleted (s t : State) : Prop :=
  t.drq = false ∧ t.bsy = false ∧ t.drdy = true ∧
  (∀ j, j ≠ 3 → j ≠ 6 → j ≠ 7 → t.status.getLsbD j = s.status.getLsbD j) ∧
  t.irq = (s.irq || !s.nIEN)

/-- The flags of a completed command without data (R175, R182), CHECK apart: COD and IO, BSY and DRQ
cleared, DRDY set; the interrupt only under NODATA_PKT_IRQ. -/
def NoDataCompleted (s t : State) : Prop :=
  t.cod = true ∧ t.io = true ∧
  (∀ j, j ≠ 0 → j ≠ 1 → t.intreason.getLsbD j = s.intreason.getLsbD j) ∧
  t.bsy = false ∧ t.drq = false ∧ t.drdy = true ∧
  (∀ j, j ≠ 0 → j ≠ 3 → j ≠ 6 → j ≠ 7 → t.status.getLsbD j = s.status.getLsbD j) ∧
  t.irq = (s.irq || (s.cfg.nodataPktIrq && !s.nIEN))

/-- Two outcomes agree: both go on in states related by `R`, or both stop for the same reason. -/
def Out.Agree (R : State → State → Prop) (a b : Out) : Prop :=
  match a, b with
  | .next t, .next u => R t u
  | .fault e, .fault f => e = f
  | .refused e, .refused f => e = f
  | _, _ => False

end Sys2Proof.Machine
end

