-- ==== Sys2Proof/Certificates/Slice0/Obligations.lean ====
section
/-!
DEFINITION. The statements about the model, for the provers. Each docstring names the rules of spec/
it formalises; "D<n>" is a decision of spec/92_eei_decisions.md, "[n]" an entry of the assumption log.
-/

open Sys2Proof Sys2Proof.Machine

/-! ## Encoding -/

/-- Decoding the encoding of a well-formed instruction gives it back, with any bytes after it.
The bus layout is the model's ([15]); the numbers are any with `Config.Wf` (D1, D11, D12). -/
def Obligations.DecodeOfEncode : Prop :=
  ∀ (c : Config) (i : Instr) (rest : List Byte), c.Wf → i.wf c = true →
    decode c i.format (encode c i ++ rest) = .ok (i, rest)

/-- What decodes from an access or a command byte is well-formed and encodes to it: no two accesses
or command bytes are one instruction. -/
def Obligations.EncodeOfDecode : Prop :=
  ∀ (c : Config), c.Wf →
    (∀ a i, decodeAccess c a = .ok i → i.wf c = true ∧ i.format = .bus ∧ encode c i = a.bytes) ∧
    (∀ b i, decodeCommand c b = .ok i → i.wf c = true ∧ i.format = .ata ∧ encode c i = [b])

/-- The packet bytes and bits that R86 to R93 mark ignored do not matter (R98): packets that agree
on the opcode and on the fields of its layout decode alike (positions: D23, D25, D26, D27, [24]). -/
def Obligations.IgnoredPacketBits : Prop :=
  ∀ (c : Config) (p p' : Packet), p'[0] = p[0] →
    (p[0] = c.pktReqMode → p'[2] = p[2] ∧ p'[4] = p[4]) →
    (p[0] = c.pktReqError → p'[4] = p[4]) →
    (p[0] = c.pktReadToc → p'[1].getLsbD 0 = p[1].getLsbD 0 ∧ p'[3] = p[3] ∧ p'[4] = p[4]) →
    (p[0] = c.pktRead → p'[1] = p[1] ∧ p'[2] = p[2] ∧ p'[3] = p[3] ∧ p'[4] = p[4] ∧
      p'[8] = p[8] ∧ p'[9] = p[9] ∧ p'[10] = p[10]) →
    decodePacket c p' = decodePacket c p

/-- A few words written out from the tables of spec/30_encoding.md and the examples of
spec/95_test_vectors.md decode to the instructions they stand for (default numbers, [2], [7]). -/
def Obligations.SpecWordsDecode : Prop :=
  decodeAccess .default (.write 0x005F709C#32 [0xA0#8, 0#8, 0#8, 0#8]) =
    .ok (.wStatusCommand [0xA0#8, 0#8, 0#8, 0#8]) ∧
  decodeAccess .default (.read 0x005F7080#32 2) = .ok (.rData 2) ∧
  decodeAccess .default (.write 0x005F74B8#32 [0x7F#8, 0x40#8, 0x43#8, 0x88#8]) =
    .ok (.wGdapro [0x7F#8, 0x40#8, 0x43#8, 0x88#8]) ∧
  decodeCommand .default 0xEF#8 = .ok .setFeatures ∧
  decodePacket .default #v[0x11#8, 0#8, 0x1E#8, 0#8, 4#8, 0#8, 0#8, 0#8, 0#8, 0#8, 0#8, 0#8] =
    .ok (.reqMode 30#8 4#8) ∧
  decodePacket .default #v[0x30#8, 0x20#8, 0#8, 0#8, 0x96#8, 0#8, 0#8, 0#8, 0#8, 0#8, 2#8, 0#8] =
    .ok (.read 2#4 0#3 0#1 150#24 2#24)

/-! ## The dispatcher and the step -/

/-- A step runs the instruction of the oldest access, in the state without that access: whenever it
decodes, in particular for every legal access to a register (R110, R111). With no access pending the
machine stays (R302, [13]). -/
def Obligations.StepRunsDecodedAccess : Prop :=
  (∀ (s : State) (a : Access) (rest : List Access) (i : Instr), s.pending = a :: rest →
    decodeAccess s.cfg a = .ok i → step s = exec i { s with pending := rest }) ∧
  (∀ (s : State) (a : Access) (rest : List Access) (r : Reg), s.cfg.Wf → s.pending = a :: rest →
    AccessTo s.cfg a r → step s = exec (a.instr r) { s with pending := rest }) ∧
  (∀ s : State, s.pending = [] → step s = .next s)

/-- R112: lookup is by exact address match. An access the bus can issue, to an address no descriptor
has, fails with UnimplementedAccess and the address, read or write; at a descriptor's address it is
that descriptor's access (if not longer than it declares, R113). Where the host stops at a fault
(R271, the default) the failure is the outcome of the step; AccessFaultUnderOtherPolicies has the
rest. -/
def Obligations.LookupByExactAddress : Prop :=
  ∀ (s : State) (a : Access) (rest : List Access), s.pending = a :: rest →
    a.len ∈ s.cfg.accessLengths →
    ((∀ r : Reg, s.cfg.addrOf r ≠ a.addr) →
      decodeAccess s.cfg a = .error (.unmapped a.addr) ∧
      (s.cfg.hostFaultPolicy = .halt →
        step s = .fault (.unimplementedAccess .noDescriptor a.addr))) ∧
    (∀ r : Reg, s.cfg.Wf → s.cfg.addrOf r = a.addr → a.len ≤ s.cfg.regLen →
      step s = exec (a.instr r) { s with pending := rest })

/-- R113: an access longer than the declared length is an error, UnimplementedAccess, which is the
outcome of the step where the host stops at a fault (R271, the default;
AccessFaultUnderOtherPolicies has the rest); a shorter one decodes. -/
def Obligations.OversizedAccessFaults : Prop :=
  ∀ (s : State) (a : Access) (rest : List Access) (r : Reg), s.cfg.Wf → s.pending = a :: rest →
    a.len ∈ s.cfg.accessLengths → a.addr = s.cfg.addrOf r →
    (s.cfg.regLen < a.len → decodeAccess s.cfg a = .error (.tooLong a.addr) ∧
      (s.cfg.hostFaultPolicy = .halt →
        step s = .fault (.unimplementedAccess .tooLong a.addr))) ∧
    (a.len ≤ s.cfg.regLen → decodeAccess s.cfg a = .ok (a.instr r))

/-- The causes of every fault, exhaustively (R261; the cause in GDDIR is D40, [32], the bound of the
queue D48, [36], the sub-fields of READ D27, [24]): a step that faults does so for one of them. -/
def Obligations.FaultCauses : Prop :=
  ∀ (s : State) (f : Fault), s.cfg.Wf → step s = .fault f →
    ∃ a rest, s.pending = a :: rest ∧ a.len ∈ s.cfg.accessLengths ∧
      match f with
      | .unimplementedAccess what x => x = a.addr ∧
          ((what = .noDescriptor ∧ ∀ r : Reg, s.cfg.addrOf r ≠ x) ∨
           (what = .tooLong ∧ (∃ r : Reg, s.cfg.addrOf r = x) ∧ s.cfg.regLen < a.len))
      | .unimplementedCommand cmd => ∃ d, a = .write (s.cfg.addrOf .statusCommand) d ∧
          cmd.toNat = leValue d % 256 ∧ ∀ op : AtaOp, s.cfg.ataCode op ≠ cmd
      | .unimplementedPacket o => ∃ d p, a = .write (s.cfg.addrOf .data) d ∧
          CompletesPacket s d p ∧ o = p[0] ∧ ∀ op : PktOp, s.cfg.pktCode op ≠ o
      | .unimplementedFeature .setModeDma => ∃ d p, a = .write (s.cfg.addrOf .data) d ∧
          CompletesPacket s d p ∧ p[0] = s.cfg.pktSetMode ∧ s.featDma = true
      | .unimplementedFeature .readSelection => ∃ d p, a = .write (s.cfg.addrOf .data) d ∧
          CompletesPacket s d p ∧ p[0] = s.cfg.pktRead ∧ p[1].toNat / 16 ≠ 2
      | .unimplementedFeature .readAddressing => ∃ d p, a = .write (s.cfg.addrOf .data) d ∧
          CompletesPacket s d p ∧ p[0] = s.cfg.pktRead ∧ p[1].toNat / 16 = 2 ∧
          p[1].toNat % 2 = 1
      | .unimplementedFeature .dmaDirection => ∃ d, a = .write (s.cfg.addrOf .gdst) d ∧
          leValue d % 2 ^ 32 ≠ 0 ∧ s.dmaEnabled = true ∧ s.dmaToMemory = false
      | .allocationFailure => ∃ d m, s.cfg.queueMaxNodes = some m ∧
          ((a = .write (s.cfg.addrOf .statusCommand) d ∧ m = 0 ∧
            leValue d % 256 = s.cfg.cmdIdentify.toNat) ∨
           ∃ p, a = .write (s.cfg.addrOf .data) d ∧ CompletesPacket s d p ∧
            ((m = 0 ∧ (p[0] = s.cfg.pktReqMode ∨ p[0] = s.cfg.pktReqError ∨
                p[0] = s.cfg.pktReadToc ∨ p[0] = s.cfg.pktVendor71)) ∨
             (p[0] = s.cfg.pktRead ∧ m < p.readCnt.toNat)))

/-- What the model refuses, exhaustively: an access of a length outside ACCESS_LENGTHS (D3, [3]) and,
under CMD_IN_NON_NORMAL = refuse only, a command write outside NORMAL (D16, [20]). -/
def Obligations.RefusalCauses : Prop :=
  ∀ (s : State) (r : Refusal), step s = .refused r →
    ∃ a rest, s.pending = a :: rest ∧
      ((r = .notATransaction ∧ a.len ∉ s.cfg.accessLengths) ∨
       (r = .commandInNonNormal ∧ (∃ d, a = .write (s.cfg.addrOf .statusCommand) d) ∧
        s.pstate ≠ .normal ∧ s.cfg.cmdInNonNormal = .refuse))

/-- R117, R150: where a command write is decoded, it has the effect of the command its low byte
names; it completes, IDENTIFY only if a node may be queued (R27). -/
def Obligations.CommandWriteRunsCommand : Prop :=
  ∀ (s : State) (d : List Byte) (op : AtaOp), s.cfg.Wf → s.CommandOpen →
    (s.cfg.ataCode op).toNat = leValue d % 256 →
    (op = .identify → s.cfg.queueMaxNodes ≠ some 0) →
    ∃ t, exec (.wStatusCommand d) s = .next t ∧ exec op.instr s = .next t

/-- An unrecognised command faults with the command byte (R157), where a command is decoded: in NORMAL,
and elsewhere under D16, [20]. -/
def Obligations.UnknownCommandFaults : Prop :=
  ∀ (s : State) (d : List Byte) (cmd : Byte), s.CommandOpen → cmd.toNat = leValue d % 256 →
    (∀ op : AtaOp, s.cfg.ataCode op ≠ cmd) →
    exec (.wStatusCommand d) s = .fault (.unimplementedCommand cmd)

/-- The data write that completes a packet (R174), of any length (D18, [21]), has the effect of the
packet command the first byte names, on a state that holds the whole packet; the machine is then in
NORMAL, a return that the model makes part of the command's meaning ([17]), except after SET_MODE,
which begins the phase of mode data; any other first byte faults (R184). -/
def Obligations.LastDataWriteRunsPacket : Prop :=
  ∀ (s : State) (d : List Byte) (p : Packet), s.cfg.Wf → CompletesPacket s d p →
    (∀ op : PktOp, s.cfg.pktCode op = p[0] →
      exec (.wData d) s = exec (op.instr p) { s with pkt := p, pcnt := 12 } ∧
      ∀ t, exec (.wData d) s = .next t →
        t.pstate = if op = .setMode then .awaitingModeData else .normal) ∧
    ((∀ op : PktOp, s.cfg.pktCode op ≠ p[0]) →
      exec (.wData d) s = .fault (.unimplementedPacket p[0]))

/-- SENDPKT (R101): the PACKET command and six 16-bit data writes, low byte first (R56), from any
state in which a command write is decoded (NORMAL, or by D16, [20], any), run the packet command of
the twelve bytes exactly once (R173, R174), in the state PACKET leaves but for the packet, its counter
and the accesses served; the return to NORMAL is part of the command's meaning ([17]). -/
def Obligations.SendPacketRunsPacket : Prop :=
  ∀ (s : State) (cmd : List Byte) (p : Packet) (op : PktOp) (rest : List Access),
    s.cfg.Wf → s.CommandOpen → s.cfg.lenOk cmd.length = true → s.cfg.lenOk 2 = true →
    leValue cmd % 256 = s.cfg.cmdPacket.toNat → s.cfg.pktCode op = p[0] →
    s.pending = .write (s.cfg.addrOf .statusCommand) cmd ::
      .write (s.cfg.addrOf .data) [p[0], p[1]] :: .write (s.cfg.addrOf .data) [p[2], p[3]] ::
      .write (s.cfg.addrOf .data) [p[4], p[5]] :: .write (s.cfg.addrOf .data) [p[6], p[7]] ::
      .write (s.cfg.addrOf .data) [p[8], p[9]] :: .write (s.cfg.addrOf .data) [p[10], p[11]] ::
      rest →
    ∃ t, exec .packet s = .next t ∧
      Host.Core.run Sys2Proof.core 7 s =
        exec (op.instr p) { t with pkt := p, pcnt := 12, pending := rest }

/-! ## Register accesses -/

/-- The task-file reads other than STATUS_COMMAND and DATA reply with their register, zero-extended,
and change nothing (R55, R118, R122, R124, R126, R128, R130, R132; D4, D5, D35). -/
def Obligations.TaskFileReads : Prop :=
  ∀ (s : State) (len : Nat),
    (∃ t, exec (.rAltstatDevctrl len) s = .next t ∧ Replied s t s.status.toNat len) ∧
    (∃ t, exec (.rErrorFeatures len) s = .next t ∧ Replied s t s.error.toNat len) ∧
    (∃ t, exec (.rIntreasonSectcnt len) s = .next t ∧ Replied s t s.intreason.toNat len) ∧
    (∃ t, exec (.rSectnum len) s = .next t ∧ Replied s t s.sectnum.toNat len) ∧
    (∃ t, exec (.rBytecntLo len) s = .next t ∧ Replied s t (s.bytecnt.toNat % 256) len) ∧
    (∃ t, exec (.rBytecntHi len) s = .next t ∧ Replied s t (s.bytecnt.toNat / 256) len) ∧
    (∃ t, exec (.rDrvsel len) s = .next t ∧ Replied s t s.drvsel.toNat len)

/-- The status read replies with STATUS and clears the interrupt line, whatever nIEN is (R116, R267;
that this read clears it is D33, [29]). -/
def Obligations.StatusReadClearsInterrupt : Prop :=
  ∀ (s : State) (len : Nat), ∃ t, exec (.rStatusCommand len) s = .next t ∧
    Replied { s with irq := false } t s.status.toNat len

/-- The DMA register reads reply with their register and change nothing; GDST reads 0 (R230, R232,
R234, R236, R238, R240, R242; D4, D38). -/
def Obligations.DmaRegisterReads : Prop :=
  ∀ (s : State) (len : Nat),
    (∃ t, exec (.rGdapro len) s = .next t ∧ Replied s t s.gdapro.toNat len) ∧
    (∃ t, exec (.rGdstar len) s = .next t ∧ Replied s t s.gdstar.toNat len) ∧
    (∃ t, exec (.rGdlen len) s = .next t ∧ Replied s t s.gdlen.toNat len) ∧
    (∃ t, exec (.rGddir len) s = .next t ∧ Replied s t s.gddir.toNat len) ∧
    (∃ t, exec (.rGden len) s = .next t ∧ Replied s t s.gden.toNat len) ∧
    (∃ t, exec (.rGdst len) s = .next t ∧ Replied s t 0 len) ∧
    (∃ t, exec (.rGdlend len) s = .next t ∧ Replied s t s.gdlend.toNat len)

/-- The task-file writes other than STATUS_COMMAND and DATA store the low 8 bits of the written value
in their register, or in their half of BYTECNT, and change nothing else (R55, R119, R123, R125,
R127, R129, R131, R133; D4, D5, D35). -/
def Obligations.TaskFileWrites : Prop :=
  ∀ (s : State) (d : List Byte),
    (∃ t, exec (.wAltstatDevctrl d) s = .next t ∧ t = { s with devctrl := t.devctrl } ∧
      t.devctrl.toNat = leValue d % 256) ∧
    (∃ t, exec (.wErrorFeatures d) s = .next t ∧ t = { s with features := t.features } ∧
      t.features.toNat = leValue d % 256) ∧
    (∃ t, exec (.wIntreasonSectcnt d) s = .next t ∧ t = { s with sectcnt := t.sectcnt } ∧
      t.sectcnt.toNat = leValue d % 256) ∧
    (∃ t, exec (.wSectnum d) s = .next t ∧ t = { s with sectnum := t.sectnum } ∧
      t.sectnum.toNat = leValue d % 256) ∧
    (∃ t, exec (.wBytecntLo d) s = .next t ∧ t = { s with bytecnt := t.bytecnt } ∧
      t.bytecnt.toNat = s.bytecnt.toNat / 256 * 256 + leValue d % 256) ∧
    (∃ t, exec (.wBytecntHi d) s = .next t ∧ t = { s with bytecnt := t.bytecnt } ∧
      t.bytecnt.toNat = leValue d % 256 * 256 + s.bytecnt.toNat % 256) ∧
    (∃ t, exec (.wDrvsel d) s = .next t ∧ t = { s with drvsel := t.drvsel } ∧
      t.drvsel.toNat = leValue d % 256)

/-- The writes of GDSTAR, GDLEN, GDDIR and GDEN store the zero-extended value, unmasked, and change
nothing else; a write of GDLEND is ignored (R233, R235, R237, R239, R243; D4, D37, D43, [32]). -/
def Obligations.DmaRegisterWrites : Prop :=
  ∀ (s : State) (d : List Byte),
    (∃ t, exec (.wGdstar d) s = .next t ∧ t = { s with gdstar := t.gdstar } ∧
      t.gdstar.toNat = leValue d % 2 ^ 32) ∧
    (∃ t, exec (.wGdlen d) s = .next t ∧ t = { s with gdlen := t.gdlen } ∧
      t.gdlen.toNat = leValue d % 2 ^ 32) ∧
    (∃ t, exec (.wGddir d) s = .next t ∧ t = { s with gddir := t.gddir } ∧
      t.gddir.toNat = leValue d % 2 ^ 32) ∧
    (∃ t, exec (.wGden d) s = .next t ∧ t = { s with gden := t.gden } ∧
      t.gden.toNat = leValue d % 2 ^ 32) ∧
    exec (.wGdlend d) s = .next s

/-- A write of GDAPRO stores bits 14:8 and 6:0 if bits 31:16 carry the security code and is ignored
otherwise (R231; D38, [33]); nothing else changes. -/
def Obligations.ProtectWriteNeedsCode : Prop :=
  ∀ (s : State) (d : List Byte),
    (leValue d / 65536 % 65536 = s.cfg.gdaproCode.toNat →
      ∃ t, exec (.wGdapro d) s = .next t ∧ t = { s with gdapro := t.gdapro } ∧
        ∀ j, t.gdapro.getLsbD j =
          ((decide (8 ≤ j ∧ j ≤ 14) || decide (j ≤ 6)) && (leValue d).testBit j)) ∧
    (leValue d / 65536 % 65536 ≠ s.cfg.gdaproCode.toNat → exec (.wGdapro d) s = .next s)

/-- The bounds of the protection window as numbers (R37; D38, [33]). -/
def Obligations.ProtectionBounds : Prop :=
  ∀ g : Word,
    (protTop g).toNat = 0x08000000 + g.toNat / 256 % 128 * 1048576 ∧
    (protBot g).toNat = 0x080FFFFF + g.toNat % 128 * 1048576

/-! ## ATA commands -/

/-- NOP, RESET and DIAGNOSTIC leave any state in which a command is decoded (R151 to R153; "no
effect" is D15, [19]). -/
def Obligations.NoEffectCommands : Prop :=
  ∀ s : State, s.CommandOpen →
    exec .nop s = .next s ∧ exec .reset s = .next s ∧ exec .diagnostic s = .next s

/-- R154, where a command is decoded (in NORMAL, and elsewhere under D16, [20]): PACKET clears CHECK,
sets "ready for command" (COD without IO), sets DRQ, resets the packet counter and goes to
AWAITING_PACKET; it changes nothing else. -/
def Obligations.PacketCommandEffect : Prop :=
  ∀ s : State, s.CommandOpen → ∃ t, exec .packet s = .next t ∧
    t = { s with status := t.status, intreason := t.intreason, pcnt := 0,
                 pstate := .awaitingPacket } ∧
    t.check = false ∧ t.drq = true ∧
    (∀ j, j ≠ 0 → j ≠ 3 → t.status.getLsbD j = s.status.getLsbD j) ∧
    t.cod = true ∧ t.io = false ∧
    (∀ j, j ≠ 0 → j ≠ 1 → t.intreason.getLsbD j = s.intreason.getLsbD j)

/-- IDENTIFY clears BSY, sets DRQ, queues exactly the 80 bytes of IDENT_BLOCK as one node in place of
what was queued (D19, [22]), raises the interrupt if unmasked and goes to NORMAL (R155). -/
def Obligations.IdentifyEffect : Prop :=
  ∀ s : State, s.cfg.Wf → s.CommandOpen → s.cfg.queueMaxNodes ≠ some 0 →
    ∃ t, exec .identify s = .next t ∧
      t = { s with status := t.status, q := [⟨0, s.cfg.identBlock⟩], irq := s.irq || !s.nIEN,
                   pstate := .normal } ∧
      (queueData t.q).length = 80 ∧ t.bsy = false ∧ t.drq = true ∧
      ∀ j, j ≠ 3 → j ≠ 7 → t.status.getLsbD j = s.status.getLsbD j

/-- SET_FEATURES (R156; the patterns are D14, [8]): with FEATURES[6:0] = 3 the entry that SECTCNT
selects gets the mode number and the others stay; an unmatched SECTCNT or another FEATURES[6:0]
changes nothing. Nothing but TMODE changes. -/
def Obligations.SetFeaturesEffect : Prop :=
  ∀ s : State, s.CommandOpen → ∃ t, exec .setFeatures s = .next t ∧
    t = { s with tmode := t.tmode } ∧
    let sc := s.sectcnt.toNat
    if s.features.toNat % 128 = 3 then
      (t.tmode.pioDflt.toNat = if sc < 2 then sc else s.tmode.pioDflt.toNat) ∧
      (t.tmode.pioFlow.toNat = if 8 ≤ sc ∧ sc < 16 then sc - 8 else s.tmode.pioFlow.toNat) ∧
      (t.tmode.swDma.toNat = if 16 ≤ sc ∧ sc < 24 then sc - 16 else s.tmode.swDma.toNat) ∧
      (t.tmode.pseudoDma.toNat = if 24 ≤ sc ∧ sc < 32 then sc - 24 else s.tmode.pseudoDma.toNat) ∧
      (t.tmode.mwDma.toNat = if 32 ≤ sc ∧ sc < 40 then sc - 32 else s.tmode.mwDma.toNat)
    else t.tmode = s.tmode

/-- Under CMD_IN_NON_NORMAL = refuse a command outside NORMAL has no meaning (R150; D16, [20]). -/
def Obligations.CommandRefusedOutsideNormal : Prop :=
  ∀ (s : State) (d : List Byte), ¬ s.CommandOpen →
    exec (.wStatusCommand d) s = .refused .commandInNonNormal ∧
    ∀ op : AtaOp, exec op.instr s = .refused .commandInNonNormal

/-! ## Data writes -/

/-- A data write in NORMAL changes nothing (R172; D17, [21]); in AWAITING_PACKET it adds the low and
then the high byte of the written word to the packet (R173; any length, D18, [21]), and until the
packet is complete that is all. -/
def Obligations.DataWriteAccumulates : Prop :=
  ∀ (s : State) (d : List Byte),
    (s.pstate = .normal → exec (.wData d) s = .next s) ∧
    ∀ k : Nat, s.pstate = .awaitingPacket → s.pcnt = k → k ≤ 8 → k % 2 = 0 →
      ∃ t, exec (.wData d) s = .next t ∧ t = { s with pkt := t.pkt, pcnt := k + 2 } ∧
        ∀ (i : Nat) (hi : i < 12), t.pkt[i].toNat =
          if i = k then leValue d % 256
          else if i = k + 1 then leValue d / 256 % 256 else s.pkt[i].toNat

/-- R178: a data write of N bytes in AWAITING_MODE_DATA takes N from the counter; at zero or below it
clears DRQ, goes to NORMAL and raises the interrupt if unmasked. Nothing else changes. -/
def Obligations.ModeDataInput : Prop :=
  ∀ (s : State) (d : List Byte), s.pstate = .awaitingModeData →
    (0 < s.pcnt - d.length →
      exec (.wData d) s = .next { s with pcnt := s.pcnt - d.length }) ∧
    (s.pcnt - d.length ≤ 0 → ∃ t, exec (.wData d) s = .next t ∧
      t = { s with pcnt := s.pcnt - d.length, status := t.status, pstate := .normal,
                   irq := s.irq || !s.nIEN } ∧
      t.drq = false ∧ ∀ j, j ≠ 3 → t.status.getLsbD j = s.status.getLsbD j)

/-! ## Packet commands -/

/-- TEST_UNIT_READY (R175; D31, D32, [27], [28]): "ready with data", BSY and DRQ cleared, DRDY set;
CHECK, sense key and additional sense tell whether a medium is present. Nothing is queued. -/
def Obligations.TestUnitReadyEffect : Prop :=
  ∀ s : State, ∃ t, exec .testUnitReady s = .next t ∧
    t = { s with status := t.status, intreason := t.intreason, error := t.error, asc := t.asc,
                 irq := t.irq, pstate := .normal } ∧
    NoDataCompleted s t ∧
    if s.cfg.mount.present then
      t.check = false ∧ t.error = 0#8 ∧ t.asc = s.cfg.ascNoError
    else
      t.check = true ∧ t.sense = s.cfg.senseNotReady ∧
      (∀ j, j < 4 → t.error.getLsbD j = s.error.getLsbD j) ∧ t.asc = s.cfg.ascNoDisc

/-- START_DISK (R182; the response is D29, [27]): a successful completion without data, whatever is
mounted. -/
def Obligations.StartDiskEffect : Prop :=
  ∀ s : State, ∃ t, exec .startDisk s = .next t ∧
    t = { s with status := t.status, intreason := t.intreason, error := 0#8,
                 asc := s.cfg.ascNoError, irq := t.irq, pstate := .normal } ∧
    NoDataCompleted s t ∧ t.check = false

/-- REQ_MODE (R176; D19, D23, [22], [24]): with a nonzero length, the bytes of MODE_BLOCK from
`min(start, 31)` to `min(start + len - 1, 31)` replace the queue as one node and BYTECNT is their
number; with length 0 the queue is emptied and BYTECNT stays. The data is announced either way. -/
def Obligations.ReqModeEffect : Prop :=
  ∀ (s : State) (start len : Byte), s.cfg.Wf →
    (len.toNat = 0 ∨ s.cfg.queueMaxNodes ≠ some 0) →
    ∃ t, exec (.reqMode start len) s = .next t ∧
      t = { s with q := t.q, bytecnt := t.bytecnt, status := t.status, intreason := t.intreason,
                   irq := t.irq, pstate := .normal } ∧
      DataAnnounced s t ∧
      if len.toNat = 0 then t.q = [] ∧ t.bytecnt = s.bytecnt
      else
        let first := min start.toNat 31
        let last := min (start.toNat + len.toNat - 1) 31
        ∃ b, t.q = [⟨0, b⟩] ∧ b.length = last + 1 - first ∧ t.bytecnt.toNat = last + 1 - first ∧
          ∀ j, j < b.length → b[j]? = s.cfg.modeBlock[first + j]?

/-- SET_MODE (R177): with FEATURES.DMA set it faults; otherwise the counter takes BYTECNT, the reason
is IO without COD (D24, [25]), DRQ is set and the phase of mode data begins, without interrupt. -/
def Obligations.SetModeEffect : Prop :=
  ∀ s : State,
    (s.featDma = true → exec .setMode s = .fault (.unimplementedFeature .setModeDma)) ∧
    (s.featDma = false → ∃ t, exec .setMode s = .next t ∧
      t = { s with status := t.status, intreason := t.intreason, pcnt := s.bytecnt.toNat,
                   pstate := .awaitingModeData } ∧
      t.drq = true ∧ (∀ j, j ≠ 3 → t.status.getLsbD j = s.status.getLsbD j) ∧
      t.io = true ∧ t.cod = false ∧
      ∀ j, j ≠ 0 → j ≠ 1 → t.intreason.getLsbD j = s.intreason.getLsbD j)

/-- REQ_ERROR (R179; layout and position D25, D19, [22], [24]): the first `min(len, 10)` bytes of the
response with the sense key and the additional sense replace the queue, as one node if there are
any; the data is announced; the error state stays. -/
def Obligations.ReqErrorEffect : Prop :=
  ∀ (s : State) (len : Byte), (len.toNat = 0 ∨ s.cfg.queueMaxNodes ≠ some 0) →
    ∃ t, exec (.reqError len) s = .next t ∧
      t = { s with q := t.q, status := t.status, intreason := t.intreason, irq := t.irq,
                   pstate := .normal } ∧
      DataAnnounced s t ∧
      if len.toNat = 0 then t.q = []
      else ∃ b, t.q = [⟨0, b⟩] ∧ b.length = min len.toNat 10 ∧
        ∀ j, j < b.length → b[j]?.map BitVec.toNat =
          [0xF0, 0, s.error.toNat / 16, 0, 0, 0, 0, 0, s.asc.toNat, 0][j]?

/-- READ_TOC (R180; D19, D26, [22], [24]): the first `min(alloc, TOC_MAX)` bytes of the session's
table of contents replace the queue, as one node if there are any; the data is announced. -/
def Obligations.ReadTocEffect : Prop :=
  ∀ (s : State) (session : BitVec 1) (alloc : Half), s.cfg.Wf →
    (min alloc.toNat s.cfg.tocMax = 0 ∨ s.cfg.queueMaxNodes ≠ some 0) →
    ∃ t, exec (.readToc session alloc) s = .next t ∧
      t = { s with q := t.q, status := t.status, intreason := t.intreason, irq := t.irq,
                   pstate := .normal } ∧
      DataAnnounced s t ∧
      let n := min alloc.toNat s.cfg.tocMax
      let toc := if session.toNat = 0 then s.cfg.mount.toc0 else s.cfg.mount.toc1
      if n = 0 then t.q = []
      else ∃ b, t.q = [⟨0, b⟩] ∧ b.length = n ∧ ∀ j, j < n → b[j]? = toc[j]?

/-- READ of whole sectors by frame address (R181; D19, D27, [22], [24]) when every sector can be
read: the queue is exactly one node for each of the `cnt` sectors in order, and without FEATURES.DMA
the data is announced, with it nothing else changes. `exp` does not matter. -/
def Obligations.ReadAllSectors : Prop :=
  ∀ (s : State) (exp : BitVec 3) (fad cnt : BitVec 24) (sectors : List (List Byte)),
    sectors.length = cnt.toNat →
    (∀ j b, sectors[j]? = some b → mountReadSector s.cfg.mount (fad.toNat + j) = some b) →
    (∀ m, s.cfg.queueMaxNodes = some m → cnt.toNat ≤ m) →
    ∃ t, exec (.read 2#4 exp 0#1 fad cnt) s = .next t ∧
      t = { s with q := sectors.map fun b => ⟨0, b⟩, status := t.status,
                   intreason := t.intreason, irq := t.irq, pstate := .normal } ∧
      if s.featDma then t.status = s.status ∧ t.intreason = s.intreason ∧ t.irq = s.irq
      else DataAnnounced s t

/-- READ when a sector fails (R181): the queue holds exactly the sectors before it, the sense key is
ILLEGAL_REQUEST, CHECK is set, the state is NORMAL, and nothing else changes (D28, [26]). -/
def Obligations.ReadSectorFailure : Prop :=
  ∀ (s : State) (exp : BitVec 3) (fad cnt : BitVec 24) (sectors : List (List Byte)),
    sectors.length < cnt.toNat →
    (∀ j b, sectors[j]? = some b → mountReadSector s.cfg.mount (fad.toNat + j) = some b) →
    mountReadSector s.cfg.mount (fad.toNat + sectors.length) = none →
    (∀ m, s.cfg.queueMaxNodes = some m → sectors.length ≤ m) →
    ∃ t, exec (.read 2#4 exp 0#1 fad cnt) s = .next t ∧
      t = { s with q := sectors.map fun b => ⟨0, b⟩, status := t.status, error := t.error,
                   pstate := .normal } ∧
      t.sense = s.cfg.senseIllegalRequest ∧
      (∀ j, j < 4 → t.error.getLsbD j = s.error.getLsbD j) ∧ t.check = true ∧
      ∀ j, j ≠ 0 → t.status.getLsbD j = s.status.getLsbD j

/-- READ with another data selection or addressing format faults, the selection checked first (R97,
R270; field values D27, order D52, [24], [39]). -/
def Obligations.ReadUnsupportedFaults : Prop :=
  ∀ (s : State) (sel : BitVec 4) (exp : BitVec 3) (ptype : BitVec 1) (fad cnt : BitVec 24),
    (sel.toNat ≠ 2 →
      exec (.read sel exp ptype fad cnt) s = .fault (.unimplementedFeature .readSelection)) ∧
    (sel.toNat = 2 → ptype.toNat ≠ 0 →
      exec (.read sel exp ptype fad cnt) s = .fault (.unimplementedFeature .readAddressing))

/-- VENDOR_71 (R183; delivery D30, [27]): PKT71_BLOB replaces the queue as one node, BYTECNT is its
length, the data is announced. -/
def Obligations.Vendor71Effect : Prop :=
  ∀ s : State, s.cfg.Wf → s.cfg.queueMaxNodes ≠ some 0 →
    ∃ t, exec .vendor71 s = .next t ∧
      t = { s with q := [⟨0, s.cfg.pkt71Blob⟩], bytecnt := t.bytecnt, status := t.status,
                   intreason := t.intreason, irq := t.irq, pstate := .normal } ∧
      t.bytecnt.toNat = s.cfg.pkt71Blob.length ∧ DataAnnounced s t

/-- Queue-node exhaustion (R27; the bound is the parameter of D48, [36]): with QUEUE_MAX_NODES = m, a
READ of more than m readable sectors faults; with m = 0 so does every command that would queue a
node. -/
def Obligations.AllocationFailureAtBound : Prop :=
  ∀ (s : State) (m : Nat), s.cfg.Wf → s.cfg.queueMaxNodes = some m →
    (∀ (exp : BitVec 3) (fad cnt : BitVec 24) (sectors : List (List Byte)),
      sectors.length = m + 1 → m < cnt.toNat →
      (∀ j b, sectors[j]? = some b → mountReadSector s.cfg.mount (fad.toNat + j) = some b) →
      exec (.read 2#4 exp 0#1 fad cnt) s = .fault .allocationFailure) ∧
    (m = 0 → exec .vendor71 s = .fault .allocationFailure ∧
      (s.CommandOpen → exec .identify s = .fault .allocationFailure) ∧
      (∀ start len : Byte, len.toNat ≠ 0 →
        exec (.reqMode start len) s = .fault .allocationFailure) ∧
      (∀ len : Byte, len.toNat ≠ 0 → exec (.reqError len) s = .fault .allocationFailure) ∧
      ∀ (session : BitVec 1) (alloc : Half), min alloc.toNat s.cfg.tocMax ≠ 0 →
        exec (.readToc session alloc) s = .fault .allocationFailure)

/-! ## The PIO drain -/

/-- The PIO drain (R210 to R212, R214; that a read of an already empty queue announces no completion
is D34, [30]): a data read of `len` bytes delivers the next `len` bytes of the queue, across
nodes, filled up with zeros; they leave the queue; if it took bytes and left none, the transfer
completes (DRQ and BSY cleared, DRDY set, interrupt if unmasked), and otherwise no flag changes. -/
def Obligations.DataReadDrainsQueue : Prop :=
  ∀ (s : State) (len : Nat), QueueWf s.cfg.nodeCap s.q →
    ∃ t, exec (.rData len) s = .next t ∧
      t = { s with q := t.q, readData := t.readData, status := t.status, irq := t.irq } ∧
      t.readData = (queueData s.q).take len ++
        List.replicate (len - (queueData s.q).length) 0x00#8 ∧
      queueData t.q = (queueData s.q).drop len ∧ QueueWf s.cfg.nodeCap t.q ∧
      if 0 < len ∧ queueData s.q ≠ [] ∧ (queueData s.q).length ≤ len then
        t.q = [] ∧ TransferCompleted s t
      else t.status = s.status ∧ t.irq = s.irq

/-- A data read of an empty queue delivers zeros and changes nothing, in particular announces no
completion (R213; D34, [30]). -/
def Obligations.EmptyQueueRead : Prop :=
  ∀ (s : State) (len : Nat), s.q = [] →
    exec (.rData len) s = .next { s with readData := List.replicate len 0x00#8 }

/-- Reads of `m` and then `n` bytes see the byte stream of one read of `m + n` and leave the same
state but for the reply (R58, R214). -/
def Obligations.MixedWidthReads : Prop :=
  ∀ (s : State) (m n : Nat), QueueWf s.cfg.nodeCap s.q →
    ∃ t u v, exec (.rData m) s = .next t ∧ exec (.rData n) t = .next u ∧
      exec (.rData (m + n)) s = .next v ∧
      v.readData = t.readData ++ u.readData ∧ u = { v with readData := u.readData }

/-! ## The DMA drain -/

/-- The drain (R244, R245; the filter byte by byte is the spec's reading of a best-effort policy, D41,
D44, [34]): source byte `k` of the `min(GDLEN, queued)` taken goes to `GDSTAR + k` modulo 2^32 if
that lies in the window, every other guest byte stays, and the bytes taken leave the queue. -/
def Obligations.DrainWritesWindow : Prop :=
  ∀ (s : State) (d : List Byte), QueueWf s.cfg.nodeCap s.q → s.gmem.wf →
    leValue d % 2 ^ 32 ≠ 0 → s.dmaEnabled = true → s.dmaToMemory = true →
    ∃ t, exec (.wGdst d) s = .next t ∧
      let total := min s.gdlen.toNat (queueData s.q).length
      let dest := fun k => (s.gdstar.toNat + k) % 2 ^ 32
      let open_ := fun a => (protTop s.gdapro).toNat ≤ a ∧ a ≤ (protBot s.gdapro).toNat
      (∀ k, k < total → open_ (dest k) → t.gmem.read (dest k) = (queueData s.q)[k]?) ∧
      (∀ a, (∀ k, k < total → dest k = a → ¬ open_ a) → t.gmem.read a = s.gmem.read a) ∧
      queueData t.q = (queueData s.q).drop total

/-- The end of a drain (R246, R247; D42, D51, [34]): GDLEND is the number of bytes taken, copied or
dropped; the flags are those of a completed transfer; DMA_END_IRQ is raised if it names a line; the
trigger has cleared itself. Registers not named stay. -/
def Obligations.DrainCompletes : Prop :=
  ∀ (s : State) (d : List Byte),
    leValue d % 2 ^ 32 ≠ 0 → s.dmaEnabled = true → s.dmaToMemory = true →
    ∃ t, exec (.wGdst d) s = .next t ∧
      t = { s with q := t.q, gmem := t.gmem, gdlend := t.gdlend, gdst := 0#32,
                   status := t.status, irq := t.irq, dmaEndLine := t.dmaEndLine } ∧
      t.gdlend.toNat = min s.gdlen.toNat (queueData s.q).length ∧
      TransferCompleted s t ∧ t.dmaEndLine = (s.dmaEndLine || s.cfg.dmaEndIrq.isSome)

/-- A trigger write that starts no drain (R241; D39, D40, [32]): zero changes nothing; with the drain
disabled only the trigger clears itself; in the wrong direction it faults. -/
def Obligations.TriggerWithoutDrain : Prop :=
  ∀ (s : State) (d : List Byte),
    (leValue d % 2 ^ 32 = 0 → exec (.wGdst d) s = .next s) ∧
    (leValue d % 2 ^ 32 ≠ 0 → s.dmaEnabled = false →
      exec (.wGdst d) s = .next { s with gdst := 0#32 }) ∧
    (leValue d % 2 ^ 32 ≠ 0 → s.dmaEnabled = true → s.dmaToMemory = false →
      exec (.wGdst d) s = .fault (.unimplementedFeature .dmaDirection))

/-! ## Rules about the whole machine -/

/-- Every point at which the controller interrupt may rise (R268): nIEN is 0, and the access is
IDENTIFY, a packet command that answers with data by PIO, the last mode data, a data read that
empties the queue, a drain, or, only under NODATA_PKT_IRQ, a packet command without data. -/
def Obligations.InterruptRisesOnlyAtListedEvents : Prop :=
  ∀ s t : State, s.Inv → step s = .next t → s.irq = false → t.irq = true →
    s.nIEN = false ∧ ∃ a rest, s.pending = a :: rest ∧
      ((∃ d, a = .write (s.cfg.addrOf .statusCommand) d ∧
          leValue d % 256 = s.cfg.cmdIdentify.toNat) ∨
       (∃ d p, a = .write (s.cfg.addrOf .data) d ∧ CompletesPacket s d p ∧
          (p[0] = s.cfg.pktReqMode ∨ p[0] = s.cfg.pktReqError ∨ p[0] = s.cfg.pktReadToc ∨
           p[0] = s.cfg.pktVendor71 ∨
           (p[0] = s.cfg.pktRead ∧ s.featDma = false ∧
            ∀ j, j < p.readCnt.toNat →
              mountReadSector s.cfg.mount (p.readFad.toNat + j) ≠ none) ∨
           (s.cfg.nodataPktIrq = true ∧
            (p[0] = s.cfg.pktTestUnitReady ∨ p[0] = s.cfg.pktStartDisk)))) ∨
       (∃ d, a = .write (s.cfg.addrOf .data) d ∧ s.pstate = .awaitingModeData ∧
          s.pcnt - d.length ≤ 0) ∨
       (∃ n, a = .read (s.cfg.addrOf .data) n ∧ queueData s.q ≠ [] ∧
          (queueData s.q).length ≤ n) ∨
       (∃ d, a = .write (s.cfg.addrOf .gdst) d ∧ leValue d % 2 ^ 32 ≠ 0 ∧
          s.dmaEnabled = true ∧ s.dmaToMemory = true))

/-- Only a read of STATUS_COMMAND lowers the controller interrupt (R267; D33, [29]). -/
def Obligations.InterruptFallsOnlyAtStatusRead : Prop :=
  ∀ s t : State, step s = .next t → s.irq = true → t.irq = false →
    ∃ n rest, s.pending = .read (s.cfg.addrOf .statusCommand) n :: rest

/-- The window changes only by a write to GDAPRO that carries the security code (R64, R231; D38,
[33]), and then to the stored fields of the value written. -/
def Obligations.WindowChangesOnlyWithCode : Prop :=
  ∀ s t : State, step s = .next t → t.gdapro ≠ s.gdapro →
    ∃ d rest, s.pending = .write (s.cfg.addrOf .gdapro) d :: rest ∧
      leValue d / 65536 % 65536 = s.cfg.gdaproCode.toNat ∧
      t.gdapro = BitVec.ofNat 32 (leValue d) &&& 0x00007F7F#32

/-- No step writes a guest byte outside the protection window, whatever it is, and only a nonzero
write to GDST with the drain enabled writes guest memory at all (R64, R276; D38, D39, [33]). -/
def Obligations.MemoryOutsideWindowKept : Prop :=
  ∀ s t : State, s.gmem.wf → step s = .next t →
    (∀ a, (a < (protTop s.gdapro).toNat ∨ (protBot s.gdapro).toNat < a) →
      t.gmem.read a = s.gmem.read a) ∧
    (t.gmem ≠ s.gmem → s.dmaEnabled = true ∧
      ∃ d rest, s.pending = .write (s.cfg.addrOf .gdst) d :: rest ∧ leValue d % 2 ^ 32 ≠ 0)

/-- The complete transition table of PSTATE (R22; the command rows are D16, [20]): a step leaves it,
or serves a PACKET or IDENTIFY command write, or a data write that completes a packet or ends the
mode data; only SET_MODE reaches AWAITING_MODE_DATA. -/
def Obligations.ProtocolTransitions : Prop :=
  ∀ s t : State, s.cfg.Wf → step s = .next t →
    t.pstate = s.pstate ∨
    (∃ d rest, s.pending = .write (s.cfg.addrOf .statusCommand) d :: rest ∧
      ((leValue d % 256 = s.cfg.cmdPacket.toNat ∧ t.pstate = .awaitingPacket) ∨
       (leValue d % 256 = s.cfg.cmdIdentify.toNat ∧ t.pstate = .normal))) ∨
    (∃ d rest, s.pending = .write (s.cfg.addrOf .data) d :: rest ∧
      ((∃ p, CompletesPacket s d p ∧
          ((p[0] = s.cfg.pktSetMode ∧ s.featDma = false ∧ t.pstate = .awaitingModeData) ∨
           (p[0] ≠ s.cfg.pktSetMode ∧ t.pstate = .normal))) ∨
       (s.pstate = .awaitingModeData ∧ s.pcnt - d.length ≤ 0 ∧ t.pstate = .normal)))

/-- R63: a read of any register but DATA and STATUS_COMMAND changes nothing but the reply (and takes
the access). -/
def Obligations.OtherReadsAreIdempotent : Prop :=
  ∀ (s : State) (a : Word) (n : Nat) (rest : List Access) (t : State),
    s.cfg.Wf → s.pending = .read a n :: rest → a ≠ s.cfg.addrOf .data →
    a ≠ s.cfg.addrOf .statusCommand → step s = .next t →
    t = { s with pending := rest, readData := t.readData }

/-- The life of a protocol error (R264): ERROR and ASC change only when a packet of TEST_UNIT_READY,
START_DISK or READ completes; CHECK falls only by PACKET, TEST_UNIT_READY or START_DISK. -/
def Obligations.ErrorStateLife : Prop :=
  ∀ s t : State, step s = .next t →
    ((t.error ≠ s.error ∨ t.asc ≠ s.asc) →
      ∃ d p rest, s.pending = .write (s.cfg.addrOf .data) d :: rest ∧ CompletesPacket s d p ∧
        (p[0] = s.cfg.pktTestUnitReady ∨ p[0] = s.cfg.pktStartDisk ∨ p[0] = s.cfg.pktRead)) ∧
    (s.check = true → t.check = false →
      (∃ d rest, s.pending = .write (s.cfg.addrOf .statusCommand) d :: rest ∧
        leValue d % 256 = s.cfg.cmdPacket.toNat) ∨
      ∃ d p rest, s.pending = .write (s.cfg.addrOf .data) d :: rest ∧ CompletesPacket s d p ∧
        (p[0] = s.cfg.pktTestUnitReady ∨ p[0] = s.cfg.pktStartDisk))

/-- No step changes the configuration: the descriptor table is "immutable after initialization" (R39,
R303), the mount is not changed by any call (R60). -/
def Obligations.ConfigurationFixed : Prop :=
  ∀ s t : State, step s = .next t → t.cfg = s.cfg

/-- TMODE is "state with no observable effect" (R25): runs of one step from two states that differ in
it only stop alike, or go on to states that differ in it only. -/
def Obligations.TransferModesUnobservable : Prop :=
  ∀ (s : State) (m : TransferModes),
    Out.Agree (fun t u => u = { t with tmode := u.tmode }) (step s) (step { s with tmode := m })

/-- With an unbounded queue "nothing observable depends on where node boundaries lie" (R26): steps
from two states whose queues hold the same bytes, in other nodes, stop alike, or go on to states
that differ in the nodes only and whose queues hold the same bytes. -/
def Obligations.NodeBoundariesUnobservable : Prop :=
  ∀ (s : State) (q : List Node), s.cfg.queueMaxNodes = none →
    QueueWf s.cfg.nodeCap s.q → QueueWf s.cfg.nodeCap q → queueData q = queueData s.q →
    Out.Agree (fun t u => u = { t with q := u.q } ∧ queueData u.q = queueData t.q)
      (step s) (step { s with q := q })

/-- The state after reset with the default parameters (R41; every value but PSTATE is D45, [9]). -/
def Obligations.ResetState : Prop :=
  State.reset.pstate = .normal ∧ State.reset.pcnt = 0 ∧
  (∀ (i : Nat) (hi : i < 12), State.reset.pkt[i] = 0#8) ∧
  State.reset.status = 0#8 ∧ State.reset.error = 0#8 ∧ State.reset.asc = 0#8 ∧
  State.reset.features = 0#8 ∧ State.reset.sectcnt = 0#8 ∧ State.reset.intreason = 0#8 ∧
  State.reset.devctrl = 0#8 ∧ State.reset.bytecnt = 0#16 ∧ State.reset.sectnum = 0#8 ∧
  State.reset.drvsel = 0#8 ∧ State.reset.tmode = ⟨0#8, 0#8, 0#8, 0#8, 0#8⟩ ∧
  State.reset.q = [] ∧ State.reset.gdstar = 0#32 ∧ State.reset.gdlen = 0#32 ∧
  State.reset.gddir = 0#32 ∧ State.reset.gden = 0#32 ∧ State.reset.gdst = 0#32 ∧
  State.reset.gdlend = 0#32 ∧ State.reset.gdapro = 0x00007F00#32 ∧ State.reset.irq = false ∧
  (protTop State.reset.gdapro).toNat = 0x0FF00000 ∧
  (protBot State.reset.gdapro).toNat = 0x080FFFFF

/-- The invariant holds after reset. -/
def Obligations.InvariantAtReset : Prop := State.reset.Inv

/-- The invariant of every reachable state (R11, R12, R17, R23, R26, R35, R37, and the canonical form
of guest memory) is kept by every step, from any state that has it. -/
def Obligations.StepKeepsInvariant : Prop :=
  ∀ s t : State, s.Inv → step s = .next t → t.Inv

/-- The range of the counter where no access is longer than 4 bytes. R23 derives -3 to 65535 from a
write that "subtracts at most 4 while it is >= 1", and -3 is kept by every step but a data write in
AWAITING_MODE_DATA at PCNT = 0; that one, after SET_MODE with BYTECNT = 0 (R177), reaches -4 by R178
([18]), and no step goes lower. -/
def Obligations.CounterRange : Prop :=
  ∀ s t : State, s.Inv → (∀ n ∈ s.cfg.accessLengths, n ≤ 4) → -4 ≤ s.pcnt → s.pcnt ≤ 65535 →
    step s = .next t →
    -4 ≤ t.pcnt ∧ t.pcnt ≤ 65535 ∧
    (¬ (s.pstate = .awaitingModeData ∧ s.pcnt = 0) → -3 ≤ s.pcnt → -3 ≤ t.pcnt)

/-- Where the host does not stop at a fault (HOST_FAULT_POLICY, R262; the model's reading of the
policies other than `halt`, [35]), an access that fails with UnimplementedAccess changes no register
(R114): the run goes on with the next access, in the same state. -/
def Obligations.AccessFaultUnderOtherPolicies : Prop :=
  ∀ (s : State) (a : Access) (rest : List Access), s.pending = a :: rest →
    s.cfg.hostFaultPolicy ≠ .halt → a.len ∈ s.cfg.accessLengths →
    ((∀ r : Reg, s.cfg.addrOf r ≠ a.addr) → step s = .next { s with pending := rest }) ∧
    (s.cfg.regLen < a.len → step s = .next { s with pending := rest })

/-! ## The queue -/

/-- R29, R30: a byte is consumed by advancing the front node's cursor and removing the node when the
cursor reaches the length, and none is consumed from an empty queue; the bytes to be consumed are the
sum of `len - cursor`, 0 exactly when no nodes remain (nodes as R26 has them). -/
def Obligations.ByteConsumption : Prop :=
  consumeByte [] = none ∧
  (∀ (n : Node) (ns : List Node) (b : Byte), n.data[n.cursor]? = some b →
    (n.cursor + 1 < n.data.length →
      consumeByte (n :: ns) = some (b, ⟨n.cursor + 1, n.data⟩ :: ns)) ∧
    (n.cursor + 1 = n.data.length → consumeByte (n :: ns) = some (b, ns))) ∧
  (∀ q : List Node, queueBytes q = (q.map fun n => n.data.length - n.cursor).sum) ∧
  ∀ (cap : Nat) (q : List Node), QueueWf cap q →
    (queueEmpty q = true ↔ queueBytes q = 0) ∧ (queueEmpty q = true ↔ q = [])
end

