-- ==== Sys2Proof/Laws/State.lean ====
section
/-!
SUPPORT. One lemma per field per named update of State, and for each update made of others its form
as one record update, so that no later proof unfolds an update.
-/

namespace Sys2Proof.Machine

/-! ### `State.setBsy` -/

@[simp] theorem State.setBsy_status (s : State) (b : Bool) : (s.setBsy b).status = withBit s.status 7 b := rfl
@[simp] theorem State.setBsy_error (s : State) (b : Bool) : (s.setBsy b).error = s.error := rfl
@[simp] theorem State.setBsy_asc (s : State) (b : Bool) : (s.setBsy b).asc = s.asc := rfl
@[simp] theorem State.setBsy_features (s : State) (b : Bool) : (s.setBsy b).features = s.features := rfl
@[simp] theorem State.setBsy_sectcnt (s : State) (b : Bool) : (s.setBsy b).sectcnt = s.sectcnt := rfl
@[simp] theorem State.setBsy_intreason (s : State) (b : Bool) : (s.setBsy b).intreason = s.intreason := rfl
@[simp] theorem State.setBsy_devctrl (s : State) (b : Bool) : (s.setBsy b).devctrl = s.devctrl := rfl
@[simp] theorem State.setBsy_bytecnt (s : State) (b : Bool) : (s.setBsy b).bytecnt = s.bytecnt := rfl
@[simp] theorem State.setBsy_sectnum (s : State) (b : Bool) : (s.setBsy b).sectnum = s.sectnum := rfl
@[simp] theorem State.setBsy_drvsel (s : State) (b : Bool) : (s.setBsy b).drvsel = s.drvsel := rfl
@[simp] theorem State.setBsy_pstate (s : State) (b : Bool) : (s.setBsy b).pstate = s.pstate := rfl
@[simp] theorem State.setBsy_pcnt (s : State) (b : Bool) : (s.setBsy b).pcnt = s.pcnt := rfl
@[simp] theorem State.setBsy_pkt (s : State) (b : Bool) : (s.setBsy b).pkt = s.pkt := rfl
@[simp] theorem State.setBsy_tmode (s : State) (b : Bool) : (s.setBsy b).tmode = s.tmode := rfl
@[simp] theorem State.setBsy_q (s : State) (b : Bool) : (s.setBsy b).q = s.q := rfl
@[simp] theorem State.setBsy_gdstar (s : State) (b : Bool) : (s.setBsy b).gdstar = s.gdstar := rfl
@[simp] theorem State.setBsy_gdlen (s : State) (b : Bool) : (s.setBsy b).gdlen = s.gdlen := rfl
@[simp] theorem State.setBsy_gddir (s : State) (b : Bool) : (s.setBsy b).gddir = s.gddir := rfl
@[simp] theorem State.setBsy_gden (s : State) (b : Bool) : (s.setBsy b).gden = s.gden := rfl
@[simp] theorem State.setBsy_gdst (s : State) (b : Bool) : (s.setBsy b).gdst = s.gdst := rfl
@[simp] theorem State.setBsy_gdlend (s : State) (b : Bool) : (s.setBsy b).gdlend = s.gdlend := rfl
@[simp] theorem State.setBsy_gdapro (s : State) (b : Bool) : (s.setBsy b).gdapro = s.gdapro := rfl
@[simp] theorem State.setBsy_irq (s : State) (b : Bool) : (s.setBsy b).irq = s.irq := rfl
@[simp] theorem State.setBsy_dmaEndLine (s : State) (b : Bool) : (s.setBsy b).dmaEndLine = s.dmaEndLine := rfl
@[simp] theorem State.setBsy_gmem (s : State) (b : Bool) : (s.setBsy b).gmem = s.gmem := rfl
@[simp] theorem State.setBsy_readData (s : State) (b : Bool) : (s.setBsy b).readData = s.readData := rfl
@[simp] theorem State.setBsy_pending (s : State) (b : Bool) : (s.setBsy b).pending = s.pending := rfl
@[simp] theorem State.setBsy_cfg (s : State) (b : Bool) : (s.setBsy b).cfg = s.cfg := rfl

/-! ### `State.setDrdy` -/

@[simp] theorem State.setDrdy_status (s : State) (b : Bool) : (s.setDrdy b).status = withBit s.status 6 b := rfl
@[simp] theorem State.setDrdy_error (s : State) (b : Bool) : (s.setDrdy b).error = s.error := rfl
@[simp] theorem State.setDrdy_asc (s : State) (b : Bool) : (s.setDrdy b).asc = s.asc := rfl
@[simp] theorem State.setDrdy_features (s : State) (b : Bool) : (s.setDrdy b).features = s.features := rfl
@[simp] theorem State.setDrdy_sectcnt (s : State) (b : Bool) : (s.setDrdy b).sectcnt = s.sectcnt := rfl
@[simp] theorem State.setDrdy_intreason (s : State) (b : Bool) : (s.setDrdy b).intreason = s.intreason := rfl
@[simp] theorem State.setDrdy_devctrl (s : State) (b : Bool) : (s.setDrdy b).devctrl = s.devctrl := rfl
@[simp] theorem State.setDrdy_bytecnt (s : State) (b : Bool) : (s.setDrdy b).bytecnt = s.bytecnt := rfl
@[simp] theorem State.setDrdy_sectnum (s : State) (b : Bool) : (s.setDrdy b).sectnum = s.sectnum := rfl
@[simp] theorem State.setDrdy_drvsel (s : State) (b : Bool) : (s.setDrdy b).drvsel = s.drvsel := rfl
@[simp] theorem State.setDrdy_pstate (s : State) (b : Bool) : (s.setDrdy b).pstate = s.pstate := rfl
@[simp] theorem State.setDrdy_pcnt (s : State) (b : Bool) : (s.setDrdy b).pcnt = s.pcnt := rfl
@[simp] theorem State.setDrdy_pkt (s : State) (b : Bool) : (s.setDrdy b).pkt = s.pkt := rfl
@[simp] theorem State.setDrdy_tmode (s : State) (b : Bool) : (s.setDrdy b).tmode = s.tmode := rfl
@[simp] theorem State.setDrdy_q (s : State) (b : Bool) : (s.setDrdy b).q = s.q := rfl
@[simp] theorem State.setDrdy_gdstar (s : State) (b : Bool) : (s.setDrdy b).gdstar = s.gdstar := rfl
@[simp] theorem State.setDrdy_gdlen (s : State) (b : Bool) : (s.setDrdy b).gdlen = s.gdlen := rfl
@[simp] theorem State.setDrdy_gddir (s : State) (b : Bool) : (s.setDrdy b).gddir = s.gddir := rfl
@[simp] theorem State.setDrdy_gden (s : State) (b : Bool) : (s.setDrdy b).gden = s.gden := rfl
@[simp] theorem State.setDrdy_gdst (s : State) (b : Bool) : (s.setDrdy b).gdst = s.gdst := rfl
@[simp] theorem State.setDrdy_gdlend (s : State) (b : Bool) : (s.setDrdy b).gdlend = s.gdlend := rfl
@[simp] theorem State.setDrdy_gdapro (s : State) (b : Bool) : (s.setDrdy b).gdapro = s.gdapro := rfl
@[simp] theorem State.setDrdy_irq (s : State) (b : Bool) : (s.setDrdy b).irq = s.irq := rfl
@[simp] theorem State.setDrdy_dmaEndLine (s : State) (b : Bool) : (s.setDrdy b).dmaEndLine = s.dmaEndLine := rfl
@[simp] theorem State.setDrdy_gmem (s : State) (b : Bool) : (s.setDrdy b).gmem = s.gmem := rfl
@[simp] theorem State.setDrdy_readData (s : State) (b : Bool) : (s.setDrdy b).readData = s.readData := rfl
@[simp] theorem State.setDrdy_pending (s : State) (b : Bool) : (s.setDrdy b).pending = s.pending := rfl
@[simp] theorem State.setDrdy_cfg (s : State) (b : Bool) : (s.setDrdy b).cfg = s.cfg := rfl

/-! ### `State.setDrq` -/

@[simp] theorem State.setDrq_status (s : State) (b : Bool) : (s.setDrq b).status = withBit s.status 3 b := rfl
@[simp] theorem State.setDrq_error (s : State) (b : Bool) : (s.setDrq b).error = s.error := rfl
@[simp] theorem State.setDrq_asc (s : State) (b : Bool) : (s.setDrq b).asc = s.asc := rfl
@[simp] theorem State.setDrq_features (s : State) (b : Bool) : (s.setDrq b).features = s.features := rfl
@[simp] theorem State.setDrq_sectcnt (s : State) (b : Bool) : (s.setDrq b).sectcnt = s.sectcnt := rfl
@[simp] theorem State.setDrq_intreason (s : State) (b : Bool) : (s.setDrq b).intreason = s.intreason := rfl
@[simp] theorem State.setDrq_devctrl (s : State) (b : Bool) : (s.setDrq b).devctrl = s.devctrl := rfl
@[simp] theorem State.setDrq_bytecnt (s : State) (b : Bool) : (s.setDrq b).bytecnt = s.bytecnt := rfl
@[simp] theorem State.setDrq_sectnum (s : State) (b : Bool) : (s.setDrq b).sectnum = s.sectnum := rfl
@[simp] theorem State.setDrq_drvsel (s : State) (b : Bool) : (s.setDrq b).drvsel = s.drvsel := rfl
@[simp] theorem State.setDrq_pstate (s : State) (b : Bool) : (s.setDrq b).pstate = s.pstate := rfl
@[simp] theorem State.setDrq_pcnt (s : State) (b : Bool) : (s.setDrq b).pcnt = s.pcnt := rfl
@[simp] theorem State.setDrq_pkt (s : State) (b : Bool) : (s.setDrq b).pkt = s.pkt := rfl
@[simp] theorem State.setDrq_tmode (s : State) (b : Bool) : (s.setDrq b).tmode = s.tmode := rfl
@[simp] theorem State.setDrq_q (s : State) (b : Bool) : (s.setDrq b).q = s.q := rfl
@[simp] theorem State.setDrq_gdstar (s : State) (b : Bool) : (s.setDrq b).gdstar = s.gdstar := rfl
@[simp] theorem State.setDrq_gdlen (s : State) (b : Bool) : (s.setDrq b).gdlen = s.gdlen := rfl
@[simp] theorem State.setDrq_gddir (s : State) (b : Bool) : (s.setDrq b).gddir = s.gddir := rfl
@[simp] theorem State.setDrq_gden (s : State) (b : Bool) : (s.setDrq b).gden = s.gden := rfl
@[simp] theorem State.setDrq_gdst (s : State) (b : Bool) : (s.setDrq b).gdst = s.gdst := rfl
@[simp] theorem State.setDrq_gdlend (s : State) (b : Bool) : (s.setDrq b).gdlend = s.gdlend := rfl
@[simp] theorem State.setDrq_gdapro (s : State) (b : Bool) : (s.setDrq b).gdapro = s.gdapro := rfl
@[simp] theorem State.setDrq_irq (s : State) (b : Bool) : (s.setDrq b).irq = s.irq := rfl
@[simp] theorem State.setDrq_dmaEndLine (s : State) (b : Bool) : (s.setDrq b).dmaEndLine = s.dmaEndLine := rfl
@[simp] theorem State.setDrq_gmem (s : State) (b : Bool) : (s.setDrq b).gmem = s.gmem := rfl
@[simp] theorem State.setDrq_readData (s : State) (b : Bool) : (s.setDrq b).readData = s.readData := rfl
@[simp] theorem State.setDrq_pending (s : State) (b : Bool) : (s.setDrq b).pending = s.pending := rfl
@[simp] theorem State.setDrq_cfg (s : State) (b : Bool) : (s.setDrq b).cfg = s.cfg := rfl

/-! ### `State.setCheck` -/

@[simp] theorem State.setCheck_status (s : State) (b : Bool) : (s.setCheck b).status = withBit s.status 0 b := rfl
@[simp] theorem State.setCheck_error (s : State) (b : Bool) : (s.setCheck b).error = s.error := rfl
@[simp] theorem State.setCheck_asc (s : State) (b : Bool) : (s.setCheck b).asc = s.asc := rfl
@[simp] theorem State.setCheck_features (s : State) (b : Bool) : (s.setCheck b).features = s.features := rfl
@[simp] theorem State.setCheck_sectcnt (s : State) (b : Bool) : (s.setCheck b).sectcnt = s.sectcnt := rfl
@[simp] theorem State.setCheck_intreason (s : State) (b : Bool) : (s.setCheck b).intreason = s.intreason := rfl
@[simp] theorem State.setCheck_devctrl (s : State) (b : Bool) : (s.setCheck b).devctrl = s.devctrl := rfl
@[simp] theorem State.setCheck_bytecnt (s : State) (b : Bool) : (s.setCheck b).bytecnt = s.bytecnt := rfl
@[simp] theorem State.setCheck_sectnum (s : State) (b : Bool) : (s.setCheck b).sectnum = s.sectnum := rfl
@[simp] theorem State.setCheck_drvsel (s : State) (b : Bool) : (s.setCheck b).drvsel = s.drvsel := rfl
@[simp] theorem State.setCheck_pstate (s : State) (b : Bool) : (s.setCheck b).pstate = s.pstate := rfl
@[simp] theorem State.setCheck_pcnt (s : State) (b : Bool) : (s.setCheck b).pcnt = s.pcnt := rfl
@[simp] theorem State.setCheck_pkt (s : State) (b : Bool) : (s.setCheck b).pkt = s.pkt := rfl
@[simp] theorem State.setCheck_tmode (s : State) (b : Bool) : (s.setCheck b).tmode = s.tmode := rfl
@[simp] theorem State.setCheck_q (s : State) (b : Bool) : (s.setCheck b).q = s.q := rfl
@[simp] theorem State.setCheck_gdstar (s : State) (b : Bool) : (s.setCheck b).gdstar = s.gdstar := rfl
@[simp] theorem State.setCheck_gdlen (s : State) (b : Bool) : (s.setCheck b).gdlen = s.gdlen := rfl
@[simp] theorem State.setCheck_gddir (s : State) (b : Bool) : (s.setCheck b).gddir = s.gddir := rfl
@[simp] theorem State.setCheck_gden (s : State) (b : Bool) : (s.setCheck b).gden = s.gden := rfl
@[simp] theorem State.setCheck_gdst (s : State) (b : Bool) : (s.setCheck b).gdst = s.gdst := rfl
@[simp] theorem State.setCheck_gdlend (s : State) (b : Bool) : (s.setCheck b).gdlend = s.gdlend := rfl
@[simp] theorem State.setCheck_gdapro (s : State) (b : Bool) : (s.setCheck b).gdapro = s.gdapro := rfl
@[simp] theorem State.setCheck_irq (s : State) (b : Bool) : (s.setCheck b).irq = s.irq := rfl
@[simp] theorem State.setCheck_dmaEndLine (s : State) (b : Bool) : (s.setCheck b).dmaEndLine = s.dmaEndLine := rfl
@[simp] theorem State.setCheck_gmem (s : State) (b : Bool) : (s.setCheck b).gmem = s.gmem := rfl
@[simp] theorem State.setCheck_readData (s : State) (b : Bool) : (s.setCheck b).readData = s.readData := rfl
@[simp] theorem State.setCheck_pending (s : State) (b : Bool) : (s.setCheck b).pending = s.pending := rfl
@[simp] theorem State.setCheck_cfg (s : State) (b : Bool) : (s.setCheck b).cfg = s.cfg := rfl

/-! ### `State.setSense` -/

@[simp] theorem State.setSense_status (s : State) (v : BitVec 4) : (s.setSense v).status = s.status := rfl
@[simp] theorem State.setSense_error (s : State) (v : BitVec 4) : (s.setSense v).error = v ++ s.error.extractLsb' 0 4 := rfl
@[simp] theorem State.setSense_asc (s : State) (v : BitVec 4) : (s.setSense v).asc = s.asc := rfl
@[simp] theorem State.setSense_features (s : State) (v : BitVec 4) : (s.setSense v).features = s.features := rfl
@[simp] theorem State.setSense_sectcnt (s : State) (v : BitVec 4) : (s.setSense v).sectcnt = s.sectcnt := rfl
@[simp] theorem State.setSense_intreason (s : State) (v : BitVec 4) : (s.setSense v).intreason = s.intreason := rfl
@[simp] theorem State.setSense_devctrl (s : State) (v : BitVec 4) : (s.setSense v).devctrl = s.devctrl := rfl
@[simp] theorem State.setSense_bytecnt (s : State) (v : BitVec 4) : (s.setSense v).bytecnt = s.bytecnt := rfl
@[simp] theorem State.setSense_sectnum (s : State) (v : BitVec 4) : (s.setSense v).sectnum = s.sectnum := rfl
@[simp] theorem State.setSense_drvsel (s : State) (v : BitVec 4) : (s.setSense v).drvsel = s.drvsel := rfl
@[simp] theorem State.setSense_pstate (s : State) (v : BitVec 4) : (s.setSense v).pstate = s.pstate := rfl
@[simp] theorem State.setSense_pcnt (s : State) (v : BitVec 4) : (s.setSense v).pcnt = s.pcnt := rfl
@[simp] theorem State.setSense_pkt (s : State) (v : BitVec 4) : (s.setSense v).pkt = s.pkt := rfl
@[simp] theorem State.setSense_tmode (s : State) (v : BitVec 4) : (s.setSense v).tmode = s.tmode := rfl
@[simp] theorem State.setSense_q (s : State) (v : BitVec 4) : (s.setSense v).q = s.q := rfl
@[simp] theorem State.setSense_gdstar (s : State) (v : BitVec 4) : (s.setSense v).gdstar = s.gdstar := rfl
@[simp] theorem State.setSense_gdlen (s : State) (v : BitVec 4) : (s.setSense v).gdlen = s.gdlen := rfl
@[simp] theorem State.setSense_gddir (s : State) (v : BitVec 4) : (s.setSense v).gddir = s.gddir := rfl
@[simp] theorem State.setSense_gden (s : State) (v : BitVec 4) : (s.setSense v).gden = s.gden := rfl
@[simp] theorem State.setSense_gdst (s : State) (v : BitVec 4) : (s.setSense v).gdst = s.gdst := rfl
@[simp] theorem State.setSense_gdlend (s : State) (v : BitVec 4) : (s.setSense v).gdlend = s.gdlend := rfl
@[simp] theorem State.setSense_gdapro (s : State) (v : BitVec 4) : (s.setSense v).gdapro = s.gdapro := rfl
@[simp] theorem State.setSense_irq (s : State) (v : BitVec 4) : (s.setSense v).irq = s.irq := rfl
@[simp] theorem State.setSense_dmaEndLine (s : State) (v : BitVec 4) : (s.setSense v).dmaEndLine = s.dmaEndLine := rfl
@[simp] theorem State.setSense_gmem (s : State) (v : BitVec 4) : (s.setSense v).gmem = s.gmem := rfl
@[simp] theorem State.setSense_readData (s : State) (v : BitVec 4) : (s.setSense v).readData = s.readData := rfl
@[simp] theorem State.setSense_pending (s : State) (v : BitVec 4) : (s.setSense v).pending = s.pending := rfl
@[simp] theorem State.setSense_cfg (s : State) (v : BitVec 4) : (s.setSense v).cfg = s.cfg := rfl

/-! ### `State.clearError` -/

@[simp] theorem State.clearError_status (s : State) : (s.clearError).status = s.status := rfl
@[simp] theorem State.clearError_error (s : State) : (s.clearError).error = 0x00#8 := rfl
@[simp] theorem State.clearError_asc (s : State) : (s.clearError).asc = s.cfg.ascNoError := rfl
@[simp] theorem State.clearError_features (s : State) : (s.clearError).features = s.features := rfl
@[simp] theorem State.clearError_sectcnt (s : State) : (s.clearError).sectcnt = s.sectcnt := rfl
@[simp] theorem State.clearError_intreason (s : State) : (s.clearError).intreason = s.intreason := rfl
@[simp] theorem State.clearError_devctrl (s : State) : (s.clearError).devctrl = s.devctrl := rfl
@[simp] theorem State.clearError_bytecnt (s : State) : (s.clearError).bytecnt = s.bytecnt := rfl
@[simp] theorem State.clearError_sectnum (s : State) : (s.clearError).sectnum = s.sectnum := rfl
@[simp] theorem State.clearError_drvsel (s : State) : (s.clearError).drvsel = s.drvsel := rfl
@[simp] theorem State.clearError_pstate (s : State) : (s.clearError).pstate = s.pstate := rfl
@[simp] theorem State.clearError_pcnt (s : State) : (s.clearError).pcnt = s.pcnt := rfl
@[simp] theorem State.clearError_pkt (s : State) : (s.clearError).pkt = s.pkt := rfl
@[simp] theorem State.clearError_tmode (s : State) : (s.clearError).tmode = s.tmode := rfl
@[simp] theorem State.clearError_q (s : State) : (s.clearError).q = s.q := rfl
@[simp] theorem State.clearError_gdstar (s : State) : (s.clearError).gdstar = s.gdstar := rfl
@[simp] theorem State.clearError_gdlen (s : State) : (s.clearError).gdlen = s.gdlen := rfl
@[simp] theorem State.clearError_gddir (s : State) : (s.clearError).gddir = s.gddir := rfl
@[simp] theorem State.clearError_gden (s : State) : (s.clearError).gden = s.gden := rfl
@[simp] theorem State.clearError_gdst (s : State) : (s.clearError).gdst = s.gdst := rfl
@[simp] theorem State.clearError_gdlend (s : State) : (s.clearError).gdlend = s.gdlend := rfl
@[simp] theorem State.clearError_gdapro (s : State) : (s.clearError).gdapro = s.gdapro := rfl
@[simp] theorem State.clearError_irq (s : State) : (s.clearError).irq = s.irq := rfl
@[simp] theorem State.clearError_dmaEndLine (s : State) : (s.clearError).dmaEndLine = s.dmaEndLine := rfl
@[simp] theorem State.clearError_gmem (s : State) : (s.clearError).gmem = s.gmem := rfl
@[simp] theorem State.clearError_readData (s : State) : (s.clearError).readData = s.readData := rfl
@[simp] theorem State.clearError_pending (s : State) : (s.clearError).pending = s.pending := rfl
@[simp] theorem State.clearError_cfg (s : State) : (s.clearError).cfg = s.cfg := rfl

/-! ### `State.setReason` -/

@[simp] theorem State.setReason_status (s : State) (c i : Bool) : (s.setReason c i).status = s.status := rfl
@[simp] theorem State.setReason_error (s : State) (c i : Bool) : (s.setReason c i).error = s.error := rfl
@[simp] theorem State.setReason_asc (s : State) (c i : Bool) : (s.setReason c i).asc = s.asc := rfl
@[simp] theorem State.setReason_features (s : State) (c i : Bool) : (s.setReason c i).features = s.features := rfl
@[simp] theorem State.setReason_sectcnt (s : State) (c i : Bool) : (s.setReason c i).sectcnt = s.sectcnt := rfl
@[simp] theorem State.setReason_intreason (s : State) (c i : Bool) : (s.setReason c i).intreason = withBit (withBit s.intreason 0 c) 1 i := rfl
@[simp] theorem State.setReason_devctrl (s : State) (c i : Bool) : (s.setReason c i).devctrl = s.devctrl := rfl
@[simp] theorem State.setReason_bytecnt (s : State) (c i : Bool) : (s.setReason c i).bytecnt = s.bytecnt := rfl
@[simp] theorem State.setReason_sectnum (s : State) (c i : Bool) : (s.setReason c i).sectnum = s.sectnum := rfl
@[simp] theorem State.setReason_drvsel (s : State) (c i : Bool) : (s.setReason c i).drvsel = s.drvsel := rfl
@[simp] theorem State.setReason_pstate (s : State) (c i : Bool) : (s.setReason c i).pstate = s.pstate := rfl
@[simp] theorem State.setReason_pcnt (s : State) (c i : Bool) : (s.setReason c i).pcnt = s.pcnt := rfl
@[simp] theorem State.setReason_pkt (s : State) (c i : Bool) : (s.setReason c i).pkt = s.pkt := rfl
@[simp] theorem State.setReason_tmode (s : State) (c i : Bool) : (s.setReason c i).tmode = s.tmode := rfl
@[simp] theorem State.setReason_q (s : State) (c i : Bool) : (s.setReason c i).q = s.q := rfl
@[simp] theorem State.setReason_gdstar (s : State) (c i : Bool) : (s.setReason c i).gdstar = s.gdstar := rfl
@[simp] theorem State.setReason_gdlen (s : State) (c i : Bool) : (s.setReason c i).gdlen = s.gdlen := rfl
@[simp] theorem State.setReason_gddir (s : State) (c i : Bool) : (s.setReason c i).gddir = s.gddir := rfl
@[simp] theorem State.setReason_gden (s : State) (c i : Bool) : (s.setReason c i).gden = s.gden := rfl
@[simp] theorem State.setReason_gdst (s : State) (c i : Bool) : (s.setReason c i).gdst = s.gdst := rfl
@[simp] theorem State.setReason_gdlend (s : State) (c i : Bool) : (s.setReason c i).gdlend = s.gdlend := rfl
@[simp] theorem State.setReason_gdapro (s : State) (c i : Bool) : (s.setReason c i).gdapro = s.gdapro := rfl
@[simp] theorem State.setReason_irq (s : State) (c i : Bool) : (s.setReason c i).irq = s.irq := rfl
@[simp] theorem State.setReason_dmaEndLine (s : State) (c i : Bool) : (s.setReason c i).dmaEndLine = s.dmaEndLine := rfl
@[simp] theorem State.setReason_gmem (s : State) (c i : Bool) : (s.setReason c i).gmem = s.gmem := rfl
@[simp] theorem State.setReason_readData (s : State) (c i : Bool) : (s.setReason c i).readData = s.readData := rfl
@[simp] theorem State.setReason_pending (s : State) (c i : Bool) : (s.setReason c i).pending = s.pending := rfl
@[simp] theorem State.setReason_cfg (s : State) (c i : Bool) : (s.setReason c i).cfg = s.cfg := rfl

/-! ### `State.clearQueue` -/

@[simp] theorem State.clearQueue_status (s : State) : (s.clearQueue).status = s.status := rfl
@[simp] theorem State.clearQueue_error (s : State) : (s.clearQueue).error = s.error := rfl
@[simp] theorem State.clearQueue_asc (s : State) : (s.clearQueue).asc = s.asc := rfl
@[simp] theorem State.clearQueue_features (s : State) : (s.clearQueue).features = s.features := rfl
@[simp] theorem State.clearQueue_sectcnt (s : State) : (s.clearQueue).sectcnt = s.sectcnt := rfl
@[simp] theorem State.clearQueue_intreason (s : State) : (s.clearQueue).intreason = s.intreason := rfl
@[simp] theorem State.clearQueue_devctrl (s : State) : (s.clearQueue).devctrl = s.devctrl := rfl
@[simp] theorem State.clearQueue_bytecnt (s : State) : (s.clearQueue).bytecnt = s.bytecnt := rfl
@[simp] theorem State.clearQueue_sectnum (s : State) : (s.clearQueue).sectnum = s.sectnum := rfl
@[simp] theorem State.clearQueue_drvsel (s : State) : (s.clearQueue).drvsel = s.drvsel := rfl
@[simp] theorem State.clearQueue_pstate (s : State) : (s.clearQueue).pstate = s.pstate := rfl
@[simp] theorem State.clearQueue_pcnt (s : State) : (s.clearQueue).pcnt = s.pcnt := rfl
@[simp] theorem State.clearQueue_pkt (s : State) : (s.clearQueue).pkt = s.pkt := rfl
@[simp] theorem State.clearQueue_tmode (s : State) : (s.clearQueue).tmode = s.tmode := rfl
@[simp] theorem State.clearQueue_q (s : State) : (s.clearQueue).q = [] := rfl
@[simp] theorem State.clearQueue_gdstar (s : State) : (s.clearQueue).gdstar = s.gdstar := rfl
@[simp] theorem State.clearQueue_gdlen (s : State) : (s.clearQueue).gdlen = s.gdlen := rfl
@[simp] theorem State.clearQueue_gddir (s : State) : (s.clearQueue).gddir = s.gddir := rfl
@[simp] theorem State.clearQueue_gden (s : State) : (s.clearQueue).gden = s.gden := rfl
@[simp] theorem State.clearQueue_gdst (s : State) : (s.clearQueue).gdst = s.gdst := rfl
@[simp] theorem State.clearQueue_gdlend (s : State) : (s.clearQueue).gdlend = s.gdlend := rfl
@[simp] theorem State.clearQueue_gdapro (s : State) : (s.clearQueue).gdapro = s.gdapro := rfl
@[simp] theorem State.clearQueue_irq (s : State) : (s.clearQueue).irq = s.irq := rfl
@[simp] theorem State.clearQueue_dmaEndLine (s : State) : (s.clearQueue).dmaEndLine = s.dmaEndLine := rfl
@[simp] theorem State.clearQueue_gmem (s : State) : (s.clearQueue).gmem = s.gmem := rfl
@[simp] theorem State.clearQueue_readData (s : State) : (s.clearQueue).readData = s.readData := rfl
@[simp] theorem State.clearQueue_pending (s : State) : (s.clearQueue).pending = s.pending := rfl
@[simp] theorem State.clearQueue_cfg (s : State) : (s.clearQueue).cfg = s.cfg := rfl

/-! ### `State.clearIrq` -/

@[simp] theorem State.clearIrq_status (s : State) : (s.clearIrq).status = s.status := rfl
@[simp] theorem State.clearIrq_error (s : State) : (s.clearIrq).error = s.error := rfl
@[simp] theorem State.clearIrq_asc (s : State) : (s.clearIrq).asc = s.asc := rfl
@[simp] theorem State.clearIrq_features (s : State) : (s.clearIrq).features = s.features := rfl
@[simp] theorem State.clearIrq_sectcnt (s : State) : (s.clearIrq).sectcnt = s.sectcnt := rfl
@[simp] theorem State.clearIrq_intreason (s : State) : (s.clearIrq).intreason = s.intreason := rfl
@[simp] theorem State.clearIrq_devctrl (s : State) : (s.clearIrq).devctrl = s.devctrl := rfl
@[simp] theorem State.clearIrq_bytecnt (s : State) : (s.clearIrq).bytecnt = s.bytecnt := rfl
@[simp] theorem State.clearIrq_sectnum (s : State) : (s.clearIrq).sectnum = s.sectnum := rfl
@[simp] theorem State.clearIrq_drvsel (s : State) : (s.clearIrq).drvsel = s.drvsel := rfl
@[simp] theorem State.clearIrq_pstate (s : State) : (s.clearIrq).pstate = s.pstate := rfl
@[simp] theorem State.clearIrq_pcnt (s : State) : (s.clearIrq).pcnt = s.pcnt := rfl
@[simp] theorem State.clearIrq_pkt (s : State) : (s.clearIrq).pkt = s.pkt := rfl
@[simp] theorem State.clearIrq_tmode (s : State) : (s.clearIrq).tmode = s.tmode := rfl
@[simp] theorem State.clearIrq_q (s : State) : (s.clearIrq).q = s.q := rfl
@[simp] theorem State.clearIrq_gdstar (s : State) : (s.clearIrq).gdstar = s.gdstar := rfl
@[simp] theorem State.clearIrq_gdlen (s : State) : (s.clearIrq).gdlen = s.gdlen := rfl
@[simp] theorem State.clearIrq_gddir (s : State) : (s.clearIrq).gddir = s.gddir := rfl
@[simp] theorem State.clearIrq_gden (s : State) : (s.clearIrq).gden = s.gden := rfl
@[simp] theorem State.clearIrq_gdst (s : State) : (s.clearIrq).gdst = s.gdst := rfl
@[simp] theorem State.clearIrq_gdlend (s : State) : (s.clearIrq).gdlend = s.gdlend := rfl
@[simp] theorem State.clearIrq_gdapro (s : State) : (s.clearIrq).gdapro = s.gdapro := rfl
@[simp] theorem State.clearIrq_irq (s : State) : (s.clearIrq).irq = false := rfl
@[simp] theorem State.clearIrq_dmaEndLine (s : State) : (s.clearIrq).dmaEndLine = s.dmaEndLine := rfl
@[simp] theorem State.clearIrq_gmem (s : State) : (s.clearIrq).gmem = s.gmem := rfl
@[simp] theorem State.clearIrq_readData (s : State) : (s.clearIrq).readData = s.readData := rfl
@[simp] theorem State.clearIrq_pending (s : State) : (s.clearIrq).pending = s.pending := rfl
@[simp] theorem State.clearIrq_cfg (s : State) : (s.clearIrq).cfg = s.cfg := rfl

/-! ### `State.reply` -/

@[simp] theorem State.reply_status (s : State) (v : Word) (n : Nat) : (s.reply v n).status = s.status := rfl
@[simp] theorem State.reply_error (s : State) (v : Word) (n : Nat) : (s.reply v n).error = s.error := rfl
@[simp] theorem State.reply_asc (s : State) (v : Word) (n : Nat) : (s.reply v n).asc = s.asc := rfl
@[simp] theorem State.reply_features (s : State) (v : Word) (n : Nat) : (s.reply v n).features = s.features := rfl
@[simp] theorem State.reply_sectcnt (s : State) (v : Word) (n : Nat) : (s.reply v n).sectcnt = s.sectcnt := rfl
@[simp] theorem State.reply_intreason (s : State) (v : Word) (n : Nat) : (s.reply v n).intreason = s.intreason := rfl
@[simp] theorem State.reply_devctrl (s : State) (v : Word) (n : Nat) : (s.reply v n).devctrl = s.devctrl := rfl
@[simp] theorem State.reply_bytecnt (s : State) (v : Word) (n : Nat) : (s.reply v n).bytecnt = s.bytecnt := rfl
@[simp] theorem State.reply_sectnum (s : State) (v : Word) (n : Nat) : (s.reply v n).sectnum = s.sectnum := rfl
@[simp] theorem State.reply_drvsel (s : State) (v : Word) (n : Nat) : (s.reply v n).drvsel = s.drvsel := rfl
@[simp] theorem State.reply_pstate (s : State) (v : Word) (n : Nat) : (s.reply v n).pstate = s.pstate := rfl
@[simp] theorem State.reply_pcnt (s : State) (v : Word) (n : Nat) : (s.reply v n).pcnt = s.pcnt := rfl
@[simp] theorem State.reply_pkt (s : State) (v : Word) (n : Nat) : (s.reply v n).pkt = s.pkt := rfl
@[simp] theorem State.reply_tmode (s : State) (v : Word) (n : Nat) : (s.reply v n).tmode = s.tmode := rfl
@[simp] theorem State.reply_q (s : State) (v : Word) (n : Nat) : (s.reply v n).q = s.q := rfl
@[simp] theorem State.reply_gdstar (s : State) (v : Word) (n : Nat) : (s.reply v n).gdstar = s.gdstar := rfl
@[simp] theorem State.reply_gdlen (s : State) (v : Word) (n : Nat) : (s.reply v n).gdlen = s.gdlen := rfl
@[simp] theorem State.reply_gddir (s : State) (v : Word) (n : Nat) : (s.reply v n).gddir = s.gddir := rfl
@[simp] theorem State.reply_gden (s : State) (v : Word) (n : Nat) : (s.reply v n).gden = s.gden := rfl
@[simp] theorem State.reply_gdst (s : State) (v : Word) (n : Nat) : (s.reply v n).gdst = s.gdst := rfl
@[simp] theorem State.reply_gdlend (s : State) (v : Word) (n : Nat) : (s.reply v n).gdlend = s.gdlend := rfl
@[simp] theorem State.reply_gdapro (s : State) (v : Word) (n : Nat) : (s.reply v n).gdapro = s.gdapro := rfl
@[simp] theorem State.reply_irq (s : State) (v : Word) (n : Nat) : (s.reply v n).irq = s.irq := rfl
@[simp] theorem State.reply_dmaEndLine (s : State) (v : Word) (n : Nat) : (s.reply v n).dmaEndLine = s.dmaEndLine := rfl
@[simp] theorem State.reply_gmem (s : State) (v : Word) (n : Nat) : (s.reply v n).gmem = s.gmem := rfl
@[simp] theorem State.reply_readData (s : State) (v : Word) (n : Nat) : (s.reply v n).readData = leBytes n v.toNat := rfl
@[simp] theorem State.reply_pending (s : State) (v : Word) (n : Nat) : (s.reply v n).pending = s.pending := rfl
@[simp] theorem State.reply_cfg (s : State) (v : Word) (n : Nat) : (s.reply v n).cfg = s.cfg := rfl

/-! ### `State.packetDone` -/

@[simp] theorem State.packetDone_status (s : State) : (s.packetDone).status = s.status := rfl
@[simp] theorem State.packetDone_error (s : State) : (s.packetDone).error = s.error := rfl
@[simp] theorem State.packetDone_asc (s : State) : (s.packetDone).asc = s.asc := rfl
@[simp] theorem State.packetDone_features (s : State) : (s.packetDone).features = s.features := rfl
@[simp] theorem State.packetDone_sectcnt (s : State) : (s.packetDone).sectcnt = s.sectcnt := rfl
@[simp] theorem State.packetDone_intreason (s : State) : (s.packetDone).intreason = s.intreason := rfl
@[simp] theorem State.packetDone_devctrl (s : State) : (s.packetDone).devctrl = s.devctrl := rfl
@[simp] theorem State.packetDone_bytecnt (s : State) : (s.packetDone).bytecnt = s.bytecnt := rfl
@[simp] theorem State.packetDone_sectnum (s : State) : (s.packetDone).sectnum = s.sectnum := rfl
@[simp] theorem State.packetDone_drvsel (s : State) : (s.packetDone).drvsel = s.drvsel := rfl
@[simp] theorem State.packetDone_pstate (s : State) : (s.packetDone).pstate = .normal := rfl
@[simp] theorem State.packetDone_pcnt (s : State) : (s.packetDone).pcnt = s.pcnt := rfl
@[simp] theorem State.packetDone_pkt (s : State) : (s.packetDone).pkt = s.pkt := rfl
@[simp] theorem State.packetDone_tmode (s : State) : (s.packetDone).tmode = s.tmode := rfl
@[simp] theorem State.packetDone_q (s : State) : (s.packetDone).q = s.q := rfl
@[simp] theorem State.packetDone_gdstar (s : State) : (s.packetDone).gdstar = s.gdstar := rfl
@[simp] theorem State.packetDone_gdlen (s : State) : (s.packetDone).gdlen = s.gdlen := rfl
@[simp] theorem State.packetDone_gddir (s : State) : (s.packetDone).gddir = s.gddir := rfl
@[simp] theorem State.packetDone_gden (s : State) : (s.packetDone).gden = s.gden := rfl
@[simp] theorem State.packetDone_gdst (s : State) : (s.packetDone).gdst = s.gdst := rfl
@[simp] theorem State.packetDone_gdlend (s : State) : (s.packetDone).gdlend = s.gdlend := rfl
@[simp] theorem State.packetDone_gdapro (s : State) : (s.packetDone).gdapro = s.gdapro := rfl
@[simp] theorem State.packetDone_irq (s : State) : (s.packetDone).irq = s.irq := rfl
@[simp] theorem State.packetDone_dmaEndLine (s : State) : (s.packetDone).dmaEndLine = s.dmaEndLine := rfl
@[simp] theorem State.packetDone_gmem (s : State) : (s.packetDone).gmem = s.gmem := rfl
@[simp] theorem State.packetDone_readData (s : State) : (s.packetDone).readData = s.readData := rfl
@[simp] theorem State.packetDone_pending (s : State) : (s.packetDone).pending = s.pending := rfl
@[simp] theorem State.packetDone_cfg (s : State) : (s.packetDone).cfg = s.cfg := rfl

/-! ### The two views of ERROR (R12) -/

/-- The register is its fields, and nothing besides. -/
theorem State.error_eq_fields (s : State) :
    s.error = s.sense ++ BitVec.ofBool s.mcr ++ BitVec.ofBool s.abrt ++ BitVec.ofBool s.eomf ++
      BitVec.ofBool s.ili := by
  unfold State.sense State.mcr State.abrt State.eomf State.ili
  generalize s.error = e; revert e; decide

theorem State.errorWord_toNat (s : State) : s.errorWord.toNat = s.error.toNat := by
  have := s.error.isLt
  simp only [State.errorWord, BitVec.toNat_setWidth]; omega

@[simp] theorem State.setSense_sense (s : State) (v : BitVec 4) : (s.setSense v).sense = v := by
  apply BitVec.eq_of_getLsbD_eq
  intro i hi
  simp only [State.sense, State.setSense, BitVec.getLsbD_extractLsb', BitVec.getLsbD_append]
  rw [if_neg (by omega)]; simp [hi]

@[simp] theorem State.setSense_mcr (s : State) (v : BitVec 4) : (s.setSense v).mcr = s.mcr := by
  simp only [State.mcr, State.setSense, BitVec.getLsbD_append, BitVec.getLsbD_extractLsb']; simp
@[simp] theorem State.setSense_abrt (s : State) (v : BitVec 4) : (s.setSense v).abrt = s.abrt := by
  simp only [State.abrt, State.setSense, BitVec.getLsbD_append, BitVec.getLsbD_extractLsb']; simp
@[simp] theorem State.setSense_eomf (s : State) (v : BitVec 4) : (s.setSense v).eomf = s.eomf := by
  simp only [State.eomf, State.setSense, BitVec.getLsbD_append, BitVec.getLsbD_extractLsb']; simp
@[simp] theorem State.setSense_ili (s : State) (v : BitVec 4) : (s.setSense v).ili = s.ili := by
  simp only [State.ili, State.setSense, BitVec.getLsbD_append, BitVec.getLsbD_extractLsb']; simp

@[simp] theorem State.clearError_sense (s : State) : s.clearError.sense = 0#4 := by
  simp [State.sense]
@[simp] theorem State.clearError_mcr (s : State) : s.clearError.mcr = false := by
  simp [State.mcr]
@[simp] theorem State.clearError_abrt (s : State) : s.clearError.abrt = false := by
  simp [State.abrt]
@[simp] theorem State.clearError_eomf (s : State) : s.clearError.eomf = false := by
  simp [State.eomf]
@[simp] theorem State.clearError_ili (s : State) : s.clearError.ili = false := by
  simp [State.ili]

/-! ### Updates made of others -/

theorem State.raiseIrqIfUnmasked_eq (s : State) :
    s.raiseIrqIfUnmasked = { s with irq := s.irq || !s.nIEN } := by
  unfold State.raiseIrqIfUnmasked; cases s.nIEN <;> simp

theorem State.raiseIrqIfNoDataIrq_eq (s : State) :
    s.raiseIrqIfNoDataIrq = { s with irq := s.irq || (s.cfg.nodataPktIrq && !s.nIEN) } := by
  unfold State.raiseIrqIfNoDataIrq
  cases s.cfg.nodataPktIrq <;> simp [State.raiseIrqIfUnmasked_eq]

theorem State.raiseDmaEnd_eq (s : State) :
    s.raiseDmaEnd = { s with dmaEndLine := s.dmaEndLine || s.cfg.dmaEndIrq.isSome } := by
  unfold State.raiseDmaEnd; cases s.cfg.dmaEndIrq <;> simp

theorem State.transferDone_eq (s : State) :
    s.transferDone =
      { s with status := withBit (withBit (withBit s.status 3 false) 7 false) 6 true } := rfl

theorem State.noDataDone_eq (s : State) :
    s.noDataDone =
      { s with
        status := withBit (withBit (withBit s.status 7 false) 3 false) 6 true
        intreason := withBit (withBit s.intreason 0 true) 1 true } := rfl

theorem State.announceDataIn_eq (s : State) :
    s.announceDataIn =
      { s with
        status := withBit s.status 3 true
        intreason := withBit (withBit s.intreason 0 false) 1 true
        irq := s.irq || !s.nIEN } := by
  unfold State.announceDataIn; rw [State.raiseIrqIfUnmasked_eq]; rfl

end Sys2Proof.Machine
end

