-- ==== Sys2Proof/Laws/Ops.lean ====
section
/-!
SUPPORT. What each shared operation does, said once: bits, byte order, tables, outcomes, the queue,
guest memory, the interrupt. Later proofs cite these and do not unfold the operations.
-/

namespace Sys2Proof

/-! ## Byte order -/

@[simp] theorem leBytes_length (n v : Nat) : (leBytes n v).length = n := by
  induction n generalizing v with
  | zero => rfl
  | succ n ih => simp [leBytes, ih]

theorem leValue_leBytes (n v : Nat) : leValue (leBytes n v) = v % 256 ^ n := by
  induction n generalizing v with
  | zero => simp [leBytes, leValue, Nat.mod_one]
  | succ n ih =>
    simp only [leBytes, leValue, ih, BitVec.toNat_ofNat]
    rw [show (256 : Nat) ^ (n + 1) = 256 * 256 ^ n from Nat.pow_succ', Nat.mod_mul]

theorem leBytes_leValue (d : List Byte) : leBytes d.length (leValue d) = d := by
  induction d with
  | nil => rfl
  | cons b bs ih =>
    have hb := b.isLt
    have h1 : BitVec.ofNat 8 (b.toNat + 256 * leValue bs) = b := by
      apply BitVec.eq_of_toNat_eq; simp only [BitVec.toNat_ofNat]; omega
    have h2 : (b.toNat + 256 * leValue bs) / 256 = leValue bs := by omega
    simp only [List.length_cons, leBytes, leValue, h1, h2, ih]

theorem leValue_lt (d : List Byte) : leValue d < 256 ^ d.length := by
  induction d with
  | nil => simp [leValue]
  | cons b bs ih =>
    have hb := b.isLt
    simp only [leValue, List.length_cons, Nat.pow_succ]; omega

/-! ## Tables of distinct keys -/

theorem find?_key {α β : Type} [DecidableEq β] (f : α → β) (l : List α) (h : (l.map f).Nodup)
    (x : α) (hx : x ∈ l) : (l.find? fun y => f y == f x) = some x := by
  induction l with
  | nil => simp at hx
  | cons y ys ih =>
    simp only [List.map_cons, List.nodup_cons] at h
    rcases List.mem_cons.1 hx with rfl | hx
    · simp
    · have : f y ≠ f x := fun e => h.1 (e ▸ List.mem_map_of_mem hx)
      simp [this, ih h.2 hx]

@[simp] theorem Reg.mem_all (r : Reg) : r ∈ Reg.all := by cases r <;> decide
@[simp] theorem AtaOp.mem_all (op : AtaOp) : op ∈ AtaOp.all := by cases op <;> decide
@[simp] theorem PktOp.mem_all (op : PktOp) : op ∈ PktOp.all := by cases op <;> decide

/-- The dispatcher finds a register at its address (R112). -/
theorem Config.lookup_addrOf {c : Config} (h : c.Wf) (r : Reg) :
    c.lookup (c.addrOf r) = some ⟨r, c.addrOf r, c.regLen⟩ := by
  have h' : (c.table.map Descriptor.addr).Nodup := by
    have : c.table.map Descriptor.addr = Reg.all.map c.addrOf := by
      simp [Config.table, Function.comp_def]
    exact this ▸ h.addrDistinct
  exact find?_key Descriptor.addr c.table h' ⟨r, c.addrOf r, c.regLen⟩
    (List.mem_map.2 ⟨r, r.mem_all, rfl⟩)

/-- A descriptor found is a register at that address. -/
theorem Config.lookup_some {c : Config} {a : Word} {d : Descriptor} (h : c.lookup a = some d) :
    c.addrOf d.reg = a ∧ d.len = c.regLen := by
  have hm := List.mem_of_find?_eq_some h
  have hp := List.find?_some h
  obtain ⟨r, -, rfl⟩ := List.mem_map.1 hm
  simpa using hp

/-- Nothing is found at an address no register has. -/
theorem Config.lookup_none {c : Config} {a : Word} (h : ∀ r, c.addrOf r ≠ a) :
    c.lookup a = none := by
  simp only [Config.lookup, Config.table, List.find?_eq_none, List.mem_map]
  rintro d ⟨r, -, rfl⟩
  simpa using h r

theorem Config.ataOp_code {c : Config} (h : c.Wf) (op : AtaOp) : c.ataOp (c.ataCode op) = some op :=
  find?_key c.ataCode AtaOp.all h.ataDistinct op op.mem_all

theorem Config.ataOp_some {c : Config} {b : Byte} {op : AtaOp} (h : c.ataOp b = some op) :
    c.ataCode op = b := by simpa [Config.ataOp] using List.find?_some h

theorem Config.ataOp_none {c : Config} {b : Byte} (h : ∀ op, c.ataCode op ≠ b) :
    c.ataOp b = none := by
  simp only [Config.ataOp, List.find?_eq_none]
  intro op _; simpa using h op

theorem Config.pktOp_code {c : Config} (h : c.Wf) (op : PktOp) : c.pktOp (c.pktCode op) = some op :=
  find?_key c.pktCode PktOp.all h.pktDistinct op op.mem_all

theorem Config.pktOp_some {c : Config} {b : Byte} {op : PktOp} (h : c.pktOp b = some op) :
    c.pktCode op = b := by simpa [Config.pktOp] using List.find?_some h

theorem Config.pktOp_none {c : Config} {b : Byte} (h : ∀ op, c.pktCode op ≠ b) :
    c.pktOp b = none := by
  simp only [Config.pktOp, List.find?_eq_none]
  intro op _; simpa using h op

theorem Config.lenOk_iff {c : Config} {n : Nat} :
    c.lenOk n = true ↔ n ∈ c.accessLengths ∧ n ≤ c.regLen := by simp [Config.lenOk]

/-! ## The dispatcher (R110, R111) -/

/-- Every way `decodeAccess` can end. -/
theorem decodeAccess_cases (c : Config) (a : Access) :
    (a.len ∉ c.accessLengths ∧ decodeAccess c a = .error .notATransaction) ∨
    (a.len ∈ c.accessLengths ∧ c.lookup a.addr = none ∧
      decodeAccess c a = .error (.unmapped a.addr)) ∨
    (∃ r, a.len ∈ c.accessLengths ∧ c.addrOf r = a.addr ∧ c.regLen < a.len ∧
      decodeAccess c a = .error (.tooLong a.addr)) ∨
    (∃ r, Machine.AccessTo c a r ∧ decodeAccess c a = .ok (a.instr r)) := by
  unfold decodeAccess
  by_cases hl : a.len ∈ c.accessLengths
  · simp only [List.contains_eq_mem, hl, decide_true, if_true]
    cases hd : c.lookup a.addr with
    | none => simp
    | some d =>
      obtain ⟨ha, hn⟩ := Config.lookup_some hd
      by_cases hlt : d.len < a.len
      · exact .inr (.inr (.inl ⟨d.reg, trivial, ha, hn ▸ hlt, by simp [hlt]⟩))
      · refine .inr (.inr (.inr ⟨d.reg, ⟨ha.symm, ?_⟩, by simp [hlt]⟩))
        rw [Config.lenOk_iff]; exact ⟨hl, by omega⟩
  · simp [hl]

/-- An access to a register decodes to that register's read or write. -/
theorem decodeAccess_reg {c : Config} (h : c.Wf) {a : Access} {r : Reg}
    (ha : Machine.AccessTo c a r) : decodeAccess c a = .ok (a.instr r) := by
  obtain ⟨ha, hl⟩ := ha
  rw [Config.lenOk_iff] at hl
  have : ¬ c.regLen < a.len := by omega
  simp [decodeAccess, hl.1, ha, Config.lookup_addrOf h, this]

end Sys2Proof

namespace Sys2Proof.Machine

/-! ## Operands -/

theorem byteOf_toNat (d : List Byte) : (byteOf d).toNat = leValue d % 256 := by simp [byteOf]

theorem halfOf_toNat (d : List Byte) : (halfOf d).toNat = leValue d % 65536 := by simp [halfOf]

theorem wordOf_toNat (d : List Byte) : (wordOf d).toNat = leValue d % 2 ^ 32 := by simp [wordOf]

theorem lowByte_toNat (v : Half) : (lowByte v).toNat = v.toNat % 256 := by
  simp [lowByte, BitVec.extractLsb'_toNat]

theorem highByte_toNat (v : Half) : (highByte v).toNat = v.toNat / 256 := by
  have := v.isLt
  simp only [highByte, BitVec.extractLsb'_toNat, Nat.shiftRight_eq_div_pow]; omega

theorem withLow_toNat (v : Half) (b : Byte) :
    (withLow v b).toNat = v.toNat / 256 * 256 + b.toNat := by
  have hb := b.isLt
  simp only [withLow, BitVec.toNat_append, highByte_toNat]
  rw [← Nat.shiftLeft_add_eq_or_of_lt hb, Nat.shiftLeft_eq]

theorem withHigh_toNat (v : Half) (b : Byte) :
    (withHigh v b).toNat = b.toNat * 256 + v.toNat % 256 := by
  have hb := (lowByte v).isLt
  simp only [withHigh, BitVec.toNat_append]
  rw [← Nat.shiftLeft_add_eq_or_of_lt hb, Nat.shiftLeft_eq, lowByte_toNat]

/-! ## Bits -/

theorem withBit_getLsbD (v : Byte) (i : Nat) (b : Bool) (j : Nat) :
    (withBit v i b).getLsbD j = if j = i ∧ i < 8 then b else v.getLsbD j := by
  unfold withBit
  by_cases hj : j < 8
  · cases b <;> simp only [Bool.false_eq_true, if_false, if_true, BitVec.getLsbD_and,
      BitVec.getLsbD_or, BitVec.getLsbD_not, BitVec.getLsbD_shiftLeft, BitVec.getLsbD_one, hj,
      decide_true, Bool.true_and]
    all_goals by_cases hij : j = i
    all_goals first
      | (subst hij; simp [hj])
      | (by_cases hlt : j < i <;> (simp [hij, hlt]; try omega))
  · have h1 : ¬ (j = i ∧ i < 8) := by omega
    rw [if_neg h1, BitVec.getLsbD_of_ge _ _ (by omega), BitVec.getLsbD_of_ge _ _ (by omega)]

/-! ## Outcomes -/

theorem andThen_next {o : Out} {f : State → Out} {t : State} (h : andThen o f = .next t) :
    ∃ s, o = .next s ∧ f s = .next t := by
  cases o with
  | next s => exact ⟨s, rfl, h⟩
  | fault e => simp [andThen] at h
  | refused r => simp [andThen] at h

@[simp] theorem andThen_next_eq (s : State) (f : State → Out) : andThen (.next s) f = f s := rfl

theorem commandGate_open {s : State} (h : s.CommandOpen) (k : State → Out) :
    commandGate s k = k s := by
  unfold commandGate
  rcases h with h | h
  · simp [h]
  · cases hp : s.pstate <;> simp [h]

theorem commandGate_next {s t : State} {k : State → Out} (h : commandGate s k = .next t) :
    s.CommandOpen ∧ k s = .next t := by
  unfold commandGate at h
  split at h
  · exact ⟨.inl ‹_›, h⟩
  · exact ⟨.inr ‹_›, h⟩
  · cases h

theorem commandGate_closed {s : State} (h : ¬ s.CommandOpen) (k : State → Out) :
    commandGate s k = .refused .commandInNonNormal := by
  unfold commandGate
  split
  · exact absurd (.inl ‹_›) h
  · exact absurd (.inr ‹_›) h
  · rfl

theorem rejectOutcome_ne_next (e : Reject) (t : State) : rejectOutcome e ≠ .next t := by
  cases e <;> simp [rejectOutcome]

/-- Under `halt` the end of an access is its outcome. -/
theorem underFaultPolicy_halt {s : State} (h : s.cfg.hostFaultPolicy = .halt) (o : Out) :
    underFaultPolicy s o = o := by
  unfold underFaultPolicy; rw [h]; split <;> simp_all

/-- A rejected access that goes on: an UnimplementedAccess under another policy than `halt`, with the
block as it was. -/
theorem underFaultPolicy_reject_next {s t : State} {e : Reject}
    (h : underFaultPolicy s (rejectOutcome e) = .next t) :
    s.cfg.hostFaultPolicy ≠ .halt ∧ t = s ∧ ∃ a, e = .unmapped a ∨ e = .tooLong a := by
  cases hp : s.cfg.hostFaultPolicy <;> cases e <;>
    simp [underFaultPolicy, rejectOutcome, hp] at h <;> simp [h]

/-- UnimplementedAccess under another policy than `halt`. -/
theorem underFaultPolicy_access {s : State} (h : s.cfg.hostFaultPolicy ≠ .halt)
    (what : AccessProblem) (a : Word) :
    underFaultPolicy s (.fault (.unimplementedAccess what a)) = .next s := by
  cases hp : s.cfg.hostFaultPolicy <;> simp_all [underFaultPolicy]

/-- No policy makes a fault. -/
theorem underFaultPolicy_fault {s : State} {o : Out} {f : Fault}
    (h : underFaultPolicy s o = .fault f) : o = .fault f := by
  unfold underFaultPolicy at h; split at h <;> simp_all

/-- No policy touches a refusal. -/
theorem underFaultPolicy_refused {s : State} {o : Out} {r : Refusal} :
    underFaultPolicy s o = .refused r ↔ o = .refused r := by
  unfold underFaultPolicy; split <;> simp

/-! ## The queue -/

@[simp] theorem queueData_nil : queueData [] = [] := rfl

@[simp] theorem queueData_cons (n : Node) (q : List Node) :
    queueData (n :: q) = n.data.drop n.cursor ++ queueData q := rfl

@[simp] theorem queueData_append (p q : List Node) :
    queueData (p ++ q) = queueData p ++ queueData q := by simp [queueData]

/-- Q.bytes() counts the bytes still to be consumed (R30). -/
theorem queueBytes_eq (q : List Node) : queueBytes q = (queueData q).length := by
  induction q with
  | nil => rfl
  | cons n q ih =>
    have : queueBytes (n :: q) = n.left + queueBytes q := by simp [queueBytes]
    simp [this, ih, Node.left]

theorem queueEmpty_iff (q : List Node) : queueEmpty q = true ↔ queueData q = [] := by
  simp [queueEmpty, queueBytes_eq]

theorem QueueWf.tail {cap : Nat} {n : Node} {q : List Node} (h : QueueWf cap (n :: q)) :
    QueueWf cap q :=
  ⟨fun m hm => h.1 m (List.mem_cons_of_mem _ hm), fun m hm => h.2 m (List.mem_of_mem_tail hm)⟩

theorem QueueWf.nil (cap : Nat) : QueueWf cap [] := by simp [QueueWf]

/-- "Queue is empty iff no nodes remain" (R26 c). -/
theorem QueueWf.queueData_eq_nil {cap : Nat} {q : List Node} (h : QueueWf cap q) :
    queueData q = [] ↔ q = [] := by
  cases q with
  | nil => simp
  | cons n q =>
    have := (h.1 n (by simp)).1
    simp; omega

/-- A push appends one node, unless the bound is reached (R27). -/
theorem queuePush_eq (m : Option Nat) (q : List Node) (b : List Byte) :
    queuePush m q b = if ∀ k, m = some k → q.length < k then some (q ++ [⟨0, b⟩]) else none := by
  cases m with
  | none => simp [queuePush]
  | some k => by_cases h : k ≤ q.length <;> simp [queuePush, h]

theorem QueueWf.push {cap : Nat} {q : List Node} (h : QueueWf cap q) {b : List Byte}
    (h1 : 1 ≤ b.length) (h2 : b.length ≤ cap) : QueueWf cap (q ++ [⟨0, b⟩]) := by
  refine ⟨fun n hn => ?_, fun n hn => ?_⟩
  · rcases List.mem_append.1 hn with hn | hn
    · exact h.1 n hn
    · simp only [List.mem_singleton] at hn; subst hn; exact ⟨h1, h2⟩
  · cases q with
    | nil => simp at hn
    | cons m q =>
      simp only [List.cons_append, List.tail_cons, List.mem_append, List.mem_singleton] at hn
      rcases hn with hn | rfl
      · exact h.2 n hn
      · rfl

/-- One byte leaves the front of the queue (R29). -/
theorem consumeByte_cases {cap : Nat} {q : List Node} (h : QueueWf cap q) :
    (q = [] ∧ consumeByte q = none) ∨
    ∃ b q', consumeByte q = some (b, q') ∧ queueData q = b :: queueData q' ∧ QueueWf cap q' ∧
      q'.length ≤ q.length := by
  cases q with
  | nil => exact .inl ⟨rfl, rfl⟩
  | cons n ns =>
    obtain ⟨hc, hl⟩ := h.1 n (by simp)
    have hd : n.data.drop n.cursor = n.data[n.cursor] :: n.data.drop (n.cursor + 1) :=
      List.drop_eq_getElem_cons hc
    have hb : n.data.getD n.cursor 0x00#8 = n.data[n.cursor] := by
      simp [List.getD, hc]
    right
    by_cases he : n.data.length ≤ n.cursor + 1
    · refine ⟨n.data[n.cursor], ns, ?_, ?_, h.tail, by simp⟩
      · simp only [consumeByte, hb, he, if_true]
      · simp [hd, List.drop_eq_nil_of_le he]
    · refine ⟨n.data[n.cursor], { n with cursor := n.cursor + 1 } :: ns, ?_, ?_, ?_, by simp⟩
      · simp only [consumeByte, hb, he, if_false]
      · rw [queueData_cons, hd]; rfl
      · refine ⟨fun m hm => ?_, h.2⟩
        rcases List.mem_cons.1 hm with rfl | hm
        · exact ⟨by simpa using he, hl⟩
        · exact h.1 m (List.mem_cons_of_mem _ hm)

/-- `k` bytes at most leave the front of the queue, in order; the rest stays (R29, R214). -/
theorem consumeBytes_spec {cap : Nat} (k : Nat) {q : List Node} (h : QueueWf cap q) :
    (consumeBytes k q).1 = (queueData q).take k ∧
    queueData (consumeBytes k q).2 = (queueData q).drop k ∧
    QueueWf cap (consumeBytes k q).2 ∧ (consumeBytes k q).2.length ≤ q.length := by
  induction k generalizing q with
  | zero => simp [consumeBytes, h]
  | succ k ih =>
    rcases consumeByte_cases h with ⟨rfl, hn⟩ | ⟨b, q', hs, hd, hw, hl⟩
    · simp [consumeBytes, hn, h]
    · obtain ⟨h1, h2, h3, h4⟩ := ih hw
      simp only [consumeBytes, hs, hd, List.take_succ_cons, List.drop_succ_cons, h1, h2]
      exact ⟨trivial, trivial, h3, by omega⟩

/-- Taking `m` and then `n` bytes is taking `m + n` (R214). -/
theorem consumeBytes_add (m n : Nat) (q : List Node) :
    consumeBytes (m + n) q =
      ((consumeBytes m q).1 ++ (consumeBytes n (consumeBytes m q).2).1,
        (consumeBytes n (consumeBytes m q).2).2) := by
  induction m generalizing q with
  | zero => simp [consumeBytes]
  | succ m ih =>
    rw [show m + 1 + n = m + n + 1 by omega]
    cases hc : consumeByte q with
    | none =>
      have : ∀ k, consumeBytes k q = ([], q) := fun k => by cases k <;> simp [consumeBytes, hc]
      simp [this]
    | some r => obtain ⟨b, q'⟩ := r; simp [consumeBytes, hc, ih]

/-! ## Guest memory -/

theorem Memory.wf_tail {x : Host.Cell} {m : Memory} (h : Memory.wf (x :: m)) : Memory.wf m :=
  ⟨(List.pairwise_cons.1 h.1).2, fun y hy => h.2 y (List.mem_cons_of_mem _ hy)⟩

theorem Memory.read_eq_none_of_lt {m : Memory} {a : Nat} (h : ∀ x ∈ m, a < x.1) :
    m.read a = none := by
  induction m with
  | nil => rfl
  | cons x m ih =>
    have hx := h x (by simp)
    have : x.1 ≠ a := by omega
    obtain ⟨k, v⟩ := x
    simp only at this
    simp [Memory.read, this, ih fun y hy => h y (List.mem_cons_of_mem _ hy)]

/-- A read after a write: the written byte at its address, any other address as before. -/
theorem Memory.read_write {m : Memory} (h : m.Pairwise (fun x y => x.1 < y.1)) (a b : Nat)
    (v : Byte) : (m.write a v).read b = if b = a then some v else m.read b := by
  induction m with
  | nil =>
    by_cases hb : a = b
    · simp [Memory.write, Memory.read, hb]
    · simp [Memory.write, Memory.read, hb, Ne.symm hb]
  | cons x m ih =>
    obtain ⟨k, w⟩ := x
    obtain ⟨hk, hm⟩ := List.pairwise_cons.1 h
    unfold Memory.write
    split
    · rename_i hak
      by_cases hb : b = a
      · simp [Memory.read, hb]
      · simp [Memory.read, hb, Ne.symm hb]
    · split
      · rename_i _ hak
        subst hak
        by_cases hb : b = a
        · simp [Memory.read, hb]
        · simp [Memory.read, hb, Ne.symm hb]
      · rename_i h1 h2
        by_cases hkb : k = b
        · have : b ≠ a := by omega
          simp [Memory.read, hkb, this]
        · simp [Memory.read, hkb, ih hm]

theorem Memory.mem_write {m : Memory} {a : Nat} {v : Byte} {x : Host.Cell}
    (h : x ∈ m.write a v) : x = (a, v) ∨ x ∈ m := by
  induction m with
  | nil => simpa [Memory.write] using h
  | cons y m ih =>
    obtain ⟨k, w⟩ := y
    unfold Memory.write at h
    split at h
    · rcases List.mem_cons.1 h with rfl | h
      · exact .inl rfl
      · exact .inr h
    · split at h
      · rcases List.mem_cons.1 h with rfl | h
        · exact .inl rfl
        · exact .inr (List.mem_cons_of_mem _ h)
      · rcases List.mem_cons.1 h with rfl | h
        · exact .inr (by simp)
        · rcases ih h with rfl | h
          · exact .inl rfl
          · exact .inr (List.mem_cons_of_mem _ h)

/-- A write keeps the canonical form. -/
theorem Memory.wf_write {m : Memory} (h : m.wf) {a : Nat} (ha : a < 2 ^ 32) (v : Byte) :
    (m.write a v).wf := by
  refine ⟨?_, fun x hx => ?_⟩
  · have hp := h.1
    clear h
    induction m with
    | nil => simp [Memory.write]
    | cons x m ih =>
      obtain ⟨k, w⟩ := x
      obtain ⟨hk, hm⟩ := List.pairwise_cons.1 hp
      unfold Memory.write
      split
      · rename_i hak
        refine List.pairwise_cons.2 ⟨fun y hy => ?_, hp⟩
        rcases List.mem_cons.1 hy with rfl | hy
        · exact hak
        · exact Nat.lt_trans hak (hk y hy)
      · split
        · rename_i _ hak
          exact List.pairwise_cons.2 ⟨fun y hy => hak ▸ hk y hy, hm⟩
        · rename_i h1 h2
          refine List.pairwise_cons.2 ⟨fun y hy => ?_, ih hm⟩
          rcases Memory.mem_write hy with rfl | hy
          · simp only; omega
          · exact hk y hy
  · rcases Memory.mem_write hx with rfl | hx
    · exact ha
    · exact h.2 x hx

theorem inWindow_iff (g a : Word) :
    inWindow g a = true ↔ (protTop g).toNat ≤ a.toNat ∧ a.toNat ≤ (protBot g).toNat := by
  simp [inWindow]

/-- The writes of a drain keep the canonical form. -/
theorem Memory.wf_writeRun (g : Word) (bs : List Byte) (a : Word) {m : Memory} (h : m.wf) :
    (writeRun g a bs m).wf := by
  induction bs generalizing a m with
  | nil => exact h
  | cons b bs ih =>
    unfold writeRun
    split
    · exact ih _ (Memory.wf_write h a.isLt b)
    · exact ih _ h

/-- An address no byte of the run goes to, or one outside the window, keeps its byte. -/
theorem Memory.read_writeRun_other (g : Word) (bs : List Byte) (a : Word) {m : Memory} (h : m.wf)
    (b : Nat) (hb : ∀ k, k < bs.length → inWindow g (a + BitVec.ofNat 32 k) = true →
      (a + BitVec.ofNat 32 k).toNat ≠ b) :
    (writeRun g a bs m).read b = m.read b := by
  induction bs generalizing a m with
  | nil => rfl
  | cons v bs ih =>
    have h0 := hb 0 (by simp)
    simp only [BitVec.add_zero] at h0
    have hrest : ∀ k, k < bs.length → inWindow g (a + 1 + BitVec.ofNat 32 k) = true →
        (a + 1 + BitVec.ofNat 32 k).toNat ≠ b := by
      intro k hk
      have := hb (k + 1) (by simpa using hk)
      rwa [show a + BitVec.ofNat 32 (k + 1) = a + 1 + BitVec.ofNat 32 k by
        rw [BitVec.add_assoc]; congr 1; apply BitVec.eq_of_toNat_eq; simp; omega] at this
    unfold writeRun
    split
    · rename_i hw
      rw [ih (a + 1) (Memory.wf_write h a.isLt v) hrest, Memory.read_write h.1]
      simp [Ne.symm (h0 hw)]
    · exact ih (a + 1) h hrest

/-- Byte `k` of a run shorter than 2^32 is at its address, if that lies in the window. -/
theorem Memory.read_writeRun_at (g : Word) (bs : List Byte) (a : Word) {m : Memory} (h : m.wf)
    (hlen : bs.length ≤ 2 ^ 32) (k : Nat) (hk : k < bs.length)
    (hw : inWindow g (a + BitVec.ofNat 32 k) = true) :
    (writeRun g a bs m).read (a + BitVec.ofNat 32 k).toNat = some bs[k] := by
  induction bs generalizing a m k with
  | nil => simp at hk
  | cons v bs ih =>
    have hstep : ∀ j, a + BitVec.ofNat 32 (j + 1) = a + 1 + BitVec.ofNat 32 j := by
      intro j; rw [BitVec.add_assoc]; congr 1; apply BitVec.eq_of_toNat_eq; simp; omega
    cases k with
    | zero =>
      simp only [BitVec.add_zero] at hw ⊢
      unfold writeRun
      rw [if_pos hw, Memory.read_writeRun_other _ _ _ (Memory.wf_write h a.isLt v),
        Memory.read_write h.1]
      · simp
      · intro j hj _ he
        simp only [List.length_cons] at hlen
        have : (a + 1 + BitVec.ofNat 32 j) = a := BitVec.eq_of_toNat_eq he
        rw [← hstep] at this
        have h2 : BitVec.ofNat 32 (j + 1) = 0#32 := by
          have := congrArg (fun x => x - a) this
          simpa [BitVec.add_comm, BitVec.add_sub_cancel] using this
        have h3 := congrArg BitVec.toNat h2
        simp at h3
        omega
    | succ k =>
      rw [hstep] at hw ⊢
      unfold writeRun
      simp only [List.length_cons] at hlen hk
      split
      · rw [ih (a + 1) (Memory.wf_write h a.isLt v) (by omega) k (by omega) hw]; simp
      · rw [ih (a + 1) h (by omega) k (by omega) hw]; simp

/-! ## Pushes and responses -/

/-- What a push can end in. -/
theorem State.push_cases (s : State) (b : List Byte) :
    (s.push b = .next { s with q := s.q ++ [⟨0, b⟩] } ∧
      ∀ k, s.cfg.queueMaxNodes = some k → s.q.length < k) ∨
    (s.push b = .fault .allocationFailure ∧
      ∃ k, s.cfg.queueMaxNodes = some k ∧ k ≤ s.q.length) := by
  unfold State.push
  rw [queuePush_eq]
  by_cases h : ∀ k, s.cfg.queueMaxNodes = some k → s.q.length < k
  · rw [if_pos h]; exact .inl ⟨rfl, h⟩
  · rw [if_neg h]; push Not at h; exact .inr ⟨rfl, h⟩

/-- The one node of a response, or none for an empty one. -/
def responseQueue (b : List Byte) : List Node := if b = [] then [] else [⟨0, b⟩]

@[simp] theorem queueData_responseQueue (b : List Byte) : queueData (responseQueue b) = b := by
  unfold responseQueue; split <;> simp_all

theorem QueueWf.response {cap : Nat} {b : List Byte} (h : b.length ≤ cap) :
    QueueWf cap (responseQueue b) := by
  unfold responseQueue
  split
  · exact QueueWf.nil cap
  · rename_i hb
    exact (QueueWf.nil cap).push (List.length_pos_iff.2 hb) h

/-- What a response ends in: the announced data, or AllocationFailure if no node may be queued. -/
theorem respond_cases (s : State) (b : List Byte) :
    respond s b = .next { s with q := responseQueue b }.announceDataIn ∨
    (respond s b = .fault .allocationFailure ∧ b ≠ [] ∧ s.cfg.queueMaxNodes = some 0) := by
  unfold respond State.pushSome
  cases b with
  | nil => exact .inl rfl
  | cons x xs =>
    rcases s.clearQueue.push_cases (x :: xs) with ⟨h, -⟩ | ⟨h, k, hk, hl⟩
    · left; rw [h]; rfl
    · right
      have : k = 0 := by simpa using hl
      subst this
      exact ⟨by rw [h]; rfl, by simp, hk⟩

/-- A response completes if it queues nothing or a node may be queued. -/
theorem respond_eq {s : State} {b : List Byte} (h : b = [] ∨ s.cfg.queueMaxNodes ≠ some 0) :
    respond s b = .next { s with q := responseQueue b }.announceDataIn := by
  rcases respond_cases s b with h' | ⟨-, h2, h3⟩
  · exact h'
  · exact absurd h (by simp [h2, h3])

/-- A response that goes on has queued its node within the bound, and announced the data. -/
theorem respond_next {s t : State} {b : List Byte} (h : respond s b = .next t) :
    t = { s with q := responseQueue b }.announceDataIn ∧
      ∀ k, s.cfg.queueMaxNodes = some k → (responseQueue b).length ≤ k := by
  have hb : b = [] ∨ s.cfg.queueMaxNodes ≠ some 0 := by
    by_contra hn
    push Not at hn
    unfold respond State.pushSome at h
    cases b with
    | nil => exact hn.1 rfl
    | cons x xs => simp [State.push, State.clearQueue, queuePush, hn.2, andThen] at h
  rw [respond_eq hb] at h
  cases h
  refine ⟨rfl, fun k hk => ?_⟩
  unfold responseQueue
  split
  · simp
  · rcases hb with hb | hb
    · contradiction
    · have : k ≠ 0 := fun h0 => hb (h0 ▸ hk)
      simp only [List.length_cons, List.length_nil]; omega

/-- A response that would queue a node where none may be queued. -/
theorem respond_exhausted {s : State} {b : List Byte} (h : b ≠ [])
    (hk : s.cfg.queueMaxNodes = some 0) : respond s b = .fault .allocationFailure := by
  unfold respond State.pushSome
  cases b with
  | nil => exact absurd rfl h
  | cons x xs => simp [State.push, State.clearQueue, queuePush, hk, andThen]

/-! ## The sector loop of READ -/

/-- The nodes of the sectors `bs`. -/
def sectorNodes (bs : List (List Byte)) : List Node := bs.map fun b => ⟨0, b⟩

/-- Sectors that can be read and queued are queued, and the loop goes on after them. -/
theorem readSectors_run (c : Config) (n : Nat) (bs : List (List Byte)) (fad : Nat) (q : List Node)
    (hb : ∀ j b, bs[j]? = some b → mountReadSector c.mount (fad + j) = some b)
    (hk : ∀ k, c.queueMaxNodes = some k → q.length + bs.length ≤ k) :
    readSectors c (bs.length + n) fad q =
      readSectors c n (fad + bs.length) (q ++ sectorNodes bs) := by
  induction bs generalizing fad q with
  | nil => simp [sectorNodes]
  | cons b bs ih =>
    have h0 := hb 0 b rfl
    have hp : queuePush c.queueMaxNodes q b = some (q ++ [⟨0, b⟩]) := by
      rw [queuePush_eq, if_pos]
      intro k h; have := hk k h; simp only [List.length_cons] at this; omega
    have hstep : ∀ k, readSectors c (k + 1) fad q = readSectors c k (fad + 1) (q ++ [⟨0, b⟩]) :=
      fun k => by
        have h0' : mountReadSector c.mount fad = some b := h0
        simp only [readSectors, h0', hp]
    rw [List.length_cons, show bs.length + 1 + n = bs.length + n + 1 by omega, hstep, ih]
    · simp [sectorNodes, Nat.add_assoc, Nat.add_comm]
    · intro j x hj
      have := hb (j + 1) x (by simpa using hj)
      rwa [show fad + (j + 1) = fad + 1 + j by omega] at this
    · intro k h
      have := hk k h
      simp only [List.length_cons, List.length_append, List.length_nil] at this ⊢; omega

/-- READ when every sector can be read and queued. -/
theorem readSectors_all {c : Config} {bs : List (List Byte)} {fad : Nat}
    (hb : ∀ j b, bs[j]? = some b → mountReadSector c.mount (fad + j) = some b)
    (hk : ∀ k, c.queueMaxNodes = some k → bs.length ≤ k) :
    readSectors c bs.length fad [] = .all (sectorNodes bs) := by
  have h := readSectors_run c 0 bs fad [] hb (by simpa using hk)
  simpa [readSectors] using h

/-- READ when the sector after `bs` cannot be read. -/
theorem readSectors_failed {c : Config} {n fad : Nat} {bs : List (List Byte)} (hn : bs.length < n)
    (hb : ∀ j b, bs[j]? = some b → mountReadSector c.mount (fad + j) = some b)
    (hf : mountReadSector c.mount (fad + bs.length) = none)
    (hk : ∀ k, c.queueMaxNodes = some k → bs.length ≤ k) :
    readSectors c n fad [] = .failed (sectorNodes bs) := by
  have h := readSectors_run c (n - bs.length - 1 + 1) bs fad [] hb (by simpa using hk)
  rw [show bs.length + (n - bs.length - 1 + 1) = n by omega] at h
  simpa [readSectors, hf] using h

/-- READ when the sector after `bs` cannot be queued. -/
theorem readSectors_exhausted {c : Config} {n fad : Nat} {bs : List (List Byte)} {b : List Byte}
    (hn : bs.length < n)
    (hb : ∀ j b, bs[j]? = some b → mountReadSector c.mount (fad + j) = some b)
    (hr : mountReadSector c.mount (fad + bs.length) = some b)
    (hk : c.queueMaxNodes = some bs.length) :
    readSectors c n fad [] = .exhausted := by
  have h := readSectors_run c (n - bs.length - 1 + 1) bs fad [] hb (by simp [hk])
  rw [show bs.length + (n - bs.length - 1 + 1) = n by omega] at h
  have hp : queuePush (some bs.length) (sectorNodes bs) b = none := by
    rw [queuePush_eq, if_neg]; simp [sectorNodes]
  simpa [readSectors, hr, hk, hp] using h

/-- How the loop can end: every sector queued, or those before the first that fails, or a push that
the bound refuses. -/
theorem readSectors_cases (c : Config) (n fad : Nat) (q : List Node) :
    (∃ bs : List (List Byte), bs.length = n ∧
      (∀ j b, bs[j]? = some b → mountReadSector c.mount (fad + j) = some b) ∧
      (∀ k, c.queueMaxNodes = some k → n = 0 ∨ q.length + n ≤ k) ∧
      readSectors c n fad q = .all (q ++ sectorNodes bs)) ∨
    (∃ bs : List (List Byte), bs.length < n ∧
      (∀ j b, bs[j]? = some b → mountReadSector c.mount (fad + j) = some b) ∧
      mountReadSector c.mount (fad + bs.length) = none ∧
      (∀ k, c.queueMaxNodes = some k → bs.length = 0 ∨ q.length + bs.length ≤ k) ∧
      readSectors c n fad q = .failed (q ++ sectorNodes bs)) ∨
    (∃ k, c.queueMaxNodes = some k ∧ k < q.length + n ∧ readSectors c n fad q = .exhausted) := by
  induction n generalizing fad q with
  | zero => left; exact ⟨[], rfl, by simp, by simp, by simp [readSectors, sectorNodes]⟩
  | succ n ih =>
    cases hr : mountReadSector c.mount fad with
    | none =>
      right; left
      exact ⟨[], by simp, by simp, by simpa using hr, by simp, by simp [readSectors, hr, sectorNodes]⟩
    | some b =>
      by_cases hk : ∀ k, c.queueMaxNodes = some k → q.length < k
      · have hp : queuePush c.queueMaxNodes q b = some (q ++ [⟨0, b⟩]) := by
          rw [queuePush_eq, if_pos hk]
        have hstep : readSectors c (n + 1) fad q = readSectors c n (fad + 1) (q ++ [⟨0, b⟩]) := by
          simp [readSectors, hr, hp]
        have hcons : ∀ (bs : List (List Byte)),
            (∀ j x, bs[j]? = some x → mountReadSector c.mount (fad + 1 + j) = some x) →
            ∀ j x, (b :: bs)[j]? = some x → mountReadSector c.mount (fad + j) = some x := by
          intro bs h j x hj
          cases j with
          | zero => simp only [List.getElem?_cons_zero, Option.some.injEq] at hj; subst hj; exact hr
          | succ j =>
            have := h j x (by simpa using hj)
            rwa [show fad + (j + 1) = fad + 1 + j by omega]
        rcases ih (fad + 1) (q ++ [⟨0, b⟩]) with ⟨bs, h1, h2, h3, h4⟩ | ⟨bs, h1, h2, h3, h4, h5⟩ |
          ⟨k, h1, h2, h3⟩
        · left
          refine ⟨b :: bs, by simp [h1], hcons bs h2, fun k hk' => ?_, ?_⟩
          · have := hk k hk'
            rcases h3 k hk' with h | h
            · right; omega
            · simp at h; right; omega
          · rw [hstep, h4]; simp [sectorNodes]
        · right; left
          refine ⟨b :: bs, by simpa using h1, hcons bs h2, ?_, fun k hk' => ?_, ?_⟩
          · rw [show fad + (b :: bs).length = fad + 1 + bs.length by simp; omega]; exact h3
          · have := hk k hk'
            rcases h4 k hk' with h | h
            · right; simp [h]; omega
            · simp at h; right; simp; omega
          · rw [hstep, h5]; simp [sectorNodes]
        · right; right
          refine ⟨k, h1, by simp at h2; omega, by rw [hstep, h3]⟩
      · right; right
        push Not at hk
        obtain ⟨k, hk1, hk2⟩ := hk
        refine ⟨k, hk1, by omega, ?_⟩
        have hp : queuePush c.queueMaxNodes q b = none := by
          rw [queuePush_eq, if_neg (by push Not; exact ⟨k, hk1, hk2⟩)]
        simp [readSectors, hr, hp]

@[simp] theorem queueData_sectorNodes (bs : List (List Byte)) :
    queueData (sectorNodes bs) = bs.flatten := by
  induction bs with
  | nil => rfl
  | cons b bs ih =>
    have : sectorNodes (b :: bs) = ⟨0, b⟩ :: sectorNodes bs := rfl
    simp [this, ih]

theorem QueueWf.sectors {cap : Nat} {bs : List (List Byte)}
    (h : ∀ b ∈ bs, 1 ≤ b.length ∧ b.length ≤ cap) : QueueWf cap (sectorNodes bs) := by
  refine ⟨fun n hn => ?_, fun n hn => ?_⟩
  · obtain ⟨b, hb, rfl⟩ := List.mem_map.1 hn; exact h b hb
  · obtain ⟨b, -, rfl⟩ := List.mem_map.1 (List.mem_of_mem_tail hn); rfl

/-- A sector that can be read has SECTOR_SIZE bytes (R60). -/
theorem mountReadSector_length {c : Config} (h : c.Wf) {fad : Nat} {b : List Byte}
    (hr : mountReadSector c.mount fad = some b) : b.length = c.sectorSize := by
  unfold mountReadSector at hr
  obtain ⟨p, hp, rfl⟩ := Option.map_eq_some_iff.1 hr
  exact h.mount.sector p (List.mem_of_find?_eq_some hp)

theorem mountToc_length {c : Config} (h : c.Wf) (n : BitVec 1) :
    (mountToc c.mount n).length = c.tocMax := by
  unfold mountToc; split
  · exact h.mount.toc0
  · exact h.mount.toc1

/-! ## Commands and packets -/

/-- An ATA command instruction is the command it names. -/
theorem exec_ataInstr (op : AtaOp) (s : State) : exec op.instr s = runCommand op s := by
  cases op <;> rfl

/-- A packet instruction is the packet command it names, with the packet's operands. -/
theorem exec_pktInstr (op : PktOp) (p : Packet) (s : State) :
    exec (op.instr p) s = runPacket op p s := by cases op <;> rfl

/-! ## The step -/

/-- Everything a step that goes on can do: nothing, or, under a policy other than `halt`, nothing but
drop an access the dispatcher rejects, or the instruction of the oldest access. -/
theorem step_cases {s t : State} (h : step s = .next t) :
    (s.pending = [] ∧ t = s) ∨
    (∃ a rest, s.pending = a :: rest ∧ s.cfg.hostFaultPolicy ≠ .halt ∧
      t = { s with pending := rest }) ∨
    ∃ a rest r, s.pending = a :: rest ∧ AccessTo s.cfg a r ∧
      decodeAccess s.cfg a = .ok (a.instr r) ∧ exec (a.instr r) { s with pending := rest } = .next t := by
  unfold step at h
  split at h
  · cases h; exact .inl ⟨‹_›, rfl⟩
  · rename_i a rest hp
    right
    cases hd : decodeAccess s.cfg a with
    | error e =>
      rw [hd] at h
      obtain ⟨h1, h2, -⟩ := underFaultPolicy_reject_next h
      exact .inl ⟨a, rest, hp, h1, h2⟩
    | ok i =>
      rw [hd] at h
      rcases decodeAccess_cases s.cfg a with ⟨-, hd'⟩ | ⟨-, -, hd'⟩ | ⟨r, -, -, -, hd'⟩ | ⟨r, hr, hd'⟩ <;>
        rw [hd] at hd' <;> cases hd'
      exact .inr ⟨a, rest, r, hp, hr, hd, h⟩

end Sys2Proof.Machine
end

