-- ==== Sys2Proof/Laws/Meanings.lean ====
section
/-!
SUPPORT. What each meaning can do when it goes on: for every meaning that is not one plain update,
an inversion lemma with the next state written out as one record update of the state before.
-/

namespace Sys2Proof.Machine

/-! ## ATA commands -/

theorem execPacket_eq {s : State} (h : s.CommandOpen) :
    execPacket s = .next { s with
      status := withBit (withBit s.status 0 false) 3 true
      intreason := withBit (withBit s.intreason 0 true) 1 false
      pcnt := 0, pstate := .awaitingPacket } := by
  unfold execPacket; rw [commandGate_open h]; rfl

/-- IDENTIFY ends in its one node, or in AllocationFailure if none may be queued. -/
theorem execIdentify_cases {s : State} (h : s.CommandOpen) :
    (execIdentify s = .next { s with
        status := withBit (withBit s.status 7 false) 3 true
        q := [⟨0, s.cfg.identBlock⟩], irq := s.irq || !s.nIEN, pstate := .normal } ∧
      s.cfg.queueMaxNodes ≠ some 0) ∨
    (execIdentify s = .fault .allocationFailure ∧ s.cfg.queueMaxNodes = some 0) := by
  unfold execIdentify
  rw [commandGate_open h]
  rcases ((s.setBsy false).setDrq true).clearQueue.push_cases s.cfg.identBlock with
    ⟨hp, hk⟩ | ⟨hp, k, hk, hl⟩
  · left
    refine ⟨?_, fun h0 => ?_⟩
    · rw [hp]; simp only [andThen_next_eq, State.raiseIrqIfUnmasked_eq]; rfl
    · have := hk 0 (by simpa using h0); simp at this
  · right
    have : k = 0 := by simpa using hl
    subst this
    exact ⟨by rw [hp]; rfl, by simpa using hk⟩

theorem execSetFeatures_eq {s : State} (h : s.CommandOpen) :
    execSetFeatures s = .next { s with
      tmode := if s.features &&& 0x7F#8 = 3#8 then transferModes s.sectcnt s.tmode else s.tmode } := by
  unfold execSetFeatures; rw [commandGate_open h]; split <;> rfl

/-- A command that goes on is decoded in this state. -/
theorem runCommand_open {op : AtaOp} {s t : State} (h : runCommand op s = .next t) :
    s.CommandOpen := by
  cases op with
  | nop => exact (commandGate_next h).1
  | reset => exact (commandGate_next h).1
  | diagnostic => exact (commandGate_next h).1
  | packet => exact (commandGate_next (show execPacket s = .next t from h)).1
  | identify => exact (commandGate_next (show execIdentify s = .next t from h)).1
  | setFeatures => exact (commandGate_next (show execSetFeatures s = .next t from h)).1

/-- Everything a command that goes on can do. -/
theorem runCommand_next {op : AtaOp} {s t : State} (h : runCommand op s = .next t) :
    ((op = .nop ∨ op = .reset ∨ op = .diagnostic) ∧ t = s) ∨
    (op = .packet ∧ t = { s with
      status := withBit (withBit s.status 0 false) 3 true
      intreason := withBit (withBit s.intreason 0 true) 1 false
      pcnt := 0, pstate := .awaitingPacket }) ∨
    (op = .identify ∧ s.cfg.queueMaxNodes ≠ some 0 ∧ t = { s with
      status := withBit (withBit s.status 7 false) 3 true
      q := [⟨0, s.cfg.identBlock⟩], irq := s.irq || !s.nIEN, pstate := .normal }) ∨
    (op = .setFeatures ∧ t = { s with
      tmode := if s.features &&& 0x7F#8 = 3#8 then transferModes s.sectcnt s.tmode
        else s.tmode }) := by
  have ho := runCommand_open h
  cases op with
  | nop => have := (commandGate_next h).2; cases this; simp
  | reset => have := (commandGate_next h).2; cases this; simp
  | diagnostic => have := (commandGate_next h).2; cases this; simp
  | packet =>
    have h' : execPacket s = .next t := h
    rw [execPacket_eq ho] at h'; cases h'; simp
  | identify =>
    have h' : execIdentify s = .next t := h
    rcases execIdentify_cases ho with ⟨hi, hk⟩ | ⟨hi, -⟩
    · rw [hi] at h'; cases h'; simp [hk]
    · rw [hi] at h'; cases h'
  | setFeatures =>
    have h' : execSetFeatures s = .next t := h
    rw [execSetFeatures_eq ho] at h'; cases h'; simp

/-- A command write in a state where it is decoded. -/
theorem commandWrite_open {s : State} (h : s.CommandOpen) (cmd : Byte) :
    commandWrite cmd s =
      match s.cfg.ataOp cmd with
      | none => .fault (.unimplementedCommand cmd)
      | some op => runCommand op s := by
  unfold commandWrite; rw [commandGate_open h]
  cases s.cfg.ataOp cmd <;> rfl

theorem commandWrite_next {cmd : Byte} {s t : State} (h : commandWrite cmd s = .next t) :
    s.CommandOpen ∧ ∃ op, s.cfg.ataCode op = cmd ∧ runCommand op s = .next t := by
  obtain ⟨ho, hk⟩ := commandGate_next h
  refine ⟨ho, ?_⟩
  cases hop : s.cfg.ataOp cmd with
  | none => simp [hop, rejectOutcome] at hk
  | some op => exact ⟨op, Config.ataOp_some hop, by simpa [hop] using hk⟩

/-! ## Packet commands -/

theorem execTestUnitReady_eq (s : State) :
    execTestUnitReady s = .next { s with
      status := withBit (withBit (withBit (withBit s.status 7 false) 3 false) 6 true) 0
        (!s.cfg.mount.present)
      intreason := withBit (withBit s.intreason 0 true) 1 true
      error := if s.cfg.mount.present then 0x00#8
        else s.cfg.senseNotReady ++ s.error.extractLsb' 0 4
      asc := if s.cfg.mount.present then s.cfg.ascNoError else s.cfg.ascNoDisc
      irq := s.irq || (s.cfg.nodataPktIrq && !s.nIEN)
      pstate := .normal } := by
  unfold execTestUnitReady mountCheck
  cases s.cfg.mount.present <;> (simp only [State.raiseIrqIfNoDataIrq_eq]; rfl)

theorem execStartDisk_eq (s : State) :
    execStartDisk s = .next { s with
      status := withBit (withBit (withBit (withBit s.status 7 false) 3 false) 6 true) 0 false
      intreason := withBit (withBit s.intreason 0 true) 1 true
      error := 0x00#8, asc := s.cfg.ascNoError
      irq := s.irq || (s.cfg.nodataPktIrq && !s.nIEN)
      pstate := .normal } := by
  unfold execStartDisk; simp only [State.raiseIrqIfNoDataIrq_eq]; rfl

theorem execSetMode_next {s t : State} (h : execSetMode s = .next t) :
    s.featDma = false ∧ t = { s with
      status := withBit s.status 3 true
      intreason := withBit (withBit s.intreason 0 false) 1 true
      pcnt := s.bytecnt.toNat, pstate := .awaitingModeData } := by
  unfold execSetMode at h
  cases hd : s.featDma with
  | true => simp [hd] at h
  | false => simp only [hd, Bool.false_eq_true, if_false] at h; cases h; exact ⟨rfl, rfl⟩

/-- The bytes REQ_MODE queues. -/
def modeResponse (c : Config) (start len : Byte) : List Byte :=
  if len = 0#8 then [] else blockRange c.modeBlock (modeFirst start) (modeCount start len)

/-- REQ_MODE as a response. -/
theorem execReqMode_eq (start len : Byte) (s : State) :
    execReqMode start len s = respond { s with
      pstate := .normal
      bytecnt := if len = 0#8 then s.bytecnt else BitVec.ofNat 16 (modeCount start len) }
      (modeResponse s.cfg start len) := by
  unfold execReqMode modeResponse; split <;> rfl

theorem modeCount_bounds (start len : Byte) : 1 ≤ modeCount start len ∧ modeCount start len ≤ 32 := by
  simp only [modeCount, modeLast, modeFirst]; omega

/-- The bytes queued by REQ_MODE are as many as it counts. -/
theorem blockRange_length {c : Config} (h : c.Wf) {start len : Byte} (hl : len ≠ 0#8) :
    (blockRange c.modeBlock (modeFirst start) (modeCount start len)).length =
      modeCount start len := by
  have hm := h.mode
  have : len.toNat ≠ 0 := fun h0 => hl (BitVec.eq_of_toNat_eq (by simpa using h0))
  simp only [blockRange, List.length_take, List.length_drop, hm, modeLen, modeCount, modeLast,
    modeFirst]
  omega

theorem modeResponse_length_le {c : Config} (h : c.Wf) (start len : Byte) :
    (modeResponse c start len).length ≤ c.nodeCap := by
  have hn := h.nodeCap.1
  unfold modeResponse
  split
  · simp
  · rename_i hl
    rw [blockRange_length h hl]
    have := modeCount_bounds start len
    simp only [identLen] at hn; omega

/-- Everything READ that goes on can do. -/
theorem execRead_next {sel : BitVec 4} {ptype : BitVec 1} {fad cnt : BitVec 24} {s t : State}
    (h : execRead sel ptype fad cnt s = .next t) :
    sel = 2#4 ∧ ptype = 0#1 ∧
    ((∃ bs : List (List Byte), bs.length = cnt.toNat ∧
        (∀ j b, bs[j]? = some b → mountReadSector s.cfg.mount (fad.toNat + j) = some b) ∧
        (∀ k, s.cfg.queueMaxNodes = some k → (sectorNodes bs).length ≤ k) ∧
        t = { s with
          q := sectorNodes bs, pstate := .normal
          status := if s.featDma then s.status else withBit s.status 3 true
          intreason := if s.featDma then s.intreason
            else withBit (withBit s.intreason 0 false) 1 true
          irq := s.irq || (!s.featDma && !s.nIEN) }) ∨
     (∃ bs : List (List Byte), bs.length < cnt.toNat ∧
        (∀ j b, bs[j]? = some b → mountReadSector s.cfg.mount (fad.toNat + j) = some b) ∧
        mountReadSector s.cfg.mount (fad.toNat + bs.length) = none ∧
        (∀ k, s.cfg.queueMaxNodes = some k → (sectorNodes bs).length ≤ k) ∧
        t = { s with
          q := sectorNodes bs, pstate := .normal
          error := s.cfg.senseIllegalRequest ++ s.error.extractLsb' 0 4
          status := withBit s.status 0 true })) := by
  unfold execRead at h
  by_cases hs : sel = 2#4
  swap
  · simp [hs] at h
  by_cases hp : ptype = 0#1
  swap
  · simp [hs, hp] at h
  refine ⟨hs, hp, ?_⟩
  simp only [hs, hp, ne_eq, not_true_eq_false, if_false] at h
  rcases readSectors_cases s.cfg cnt.toNat fad.toNat [] with ⟨bs, h1, h2, h3, h4⟩ |
    ⟨bs, h1, h2, h3, h4, h5⟩ | ⟨k, -, -, h3⟩
  · left
    rw [h4] at h
    refine ⟨bs, h1, h2, fun k hk => ?_, ?_⟩
    · have := h3 k hk
      simp only [sectorNodes, List.length_map, List.length_nil] at this ⊢; omega
    · simp only [List.nil_append] at h
      cases hd : s.featDma with
      | true => simp only [hd, if_true] at h; cases h; simp [State.packetDone]
      | false =>
        simp only [hd, Bool.false_eq_true, if_false, State.announceDataIn_eq] at h
        cases h; simp [State.packetDone, State.nIEN]
  · right
    rw [h5] at h
    refine ⟨bs, h1, h2, h3, fun k hk => ?_, ?_⟩
    · have := h4 k hk
      simp only [sectorNodes, List.length_map, List.length_nil] at this ⊢; omega
    · simp only [List.nil_append] at h; cases h; rfl
  · rw [h3] at h; cases h

/-! ## The data port -/

theorem packetWrite_eq (w : Half) (s : State) :
    packetWrite w s =
      if s.pcnt = 10 then dispatchPacket (appendPacketWord w s) else .next (appendPacketWord w s) := by
  unfold packetWrite
  by_cases h : s.pcnt = 10
  · simp [h, appendPacketWord, pktLen]
  · rw [if_neg h, if_neg]
    simp only [appendPacketWord, pktLen]; omega

/-- The packet a completing data write leaves. -/
theorem appendPacketWord_of_completes {s : State} {d : List Byte} {p : Packet}
    (h : CompletesPacket s d p) :
    appendPacketWord (halfOf d) s = { s with pkt := p, pcnt := 12 } := by
  obtain ⟨-, hc, rfl⟩ := h
  have h1 : lowByte (halfOf d) = BitVec.ofNat 8 (leValue d) := by
    apply BitVec.eq_of_toNat_eq; rw [lowByte_toNat, halfOf_toNat]; simp
  have h2 : highByte (halfOf d) = BitVec.ofNat 8 (leValue d / 256) := by
    apply BitVec.eq_of_toNat_eq; rw [highByte_toNat, halfOf_toNat]; simp; omega
  simp only [appendPacketWord, hc, h1, h2]
  congr 1
  show (s.pkt.setIfInBounds 10 _).setIfInBounds 11 _ = _
  ext i hi
  simp only [Vector.getElem_setIfInBounds, Vector.getElem_set]

/-- The packet a data write completes, if it does. -/
theorem completesPacket_of {s : State} (hp : s.pstate = .awaitingPacket) (hc : s.pcnt = 10)
    (d : List Byte) :
    CompletesPacket s d ((s.pkt.set 10 (BitVec.ofNat 8 (leValue d))).set 11
      (BitVec.ofNat 8 (leValue d / 256))) := ⟨hp, hc, rfl⟩

/-- A data write that completes a packet is its dispatch. -/
theorem execWData_completes {s : State} {d : List Byte} {p : Packet} (h : CompletesPacket s d p) :
    execWData d s = dispatchPacket { s with pkt := p, pcnt := 12 } := by
  have h' : execWData d s = packetWrite (halfOf d) s := by unfold execWData; simp only [h.1]
  rw [h', packetWrite_eq, if_pos h.2.1, appendPacketWord_of_completes h]

theorem dispatchPacket_next {s t : State} (h : dispatchPacket s = .next t) :
    ∃ op, s.cfg.pktCode op = s.pkt[0] ∧ runPacket op s.pkt s = .next t := by
  unfold dispatchPacket at h
  cases hop : s.cfg.pktOp s.pkt[0] with
  | none => simp [hop, rejectOutcome] at h
  | some op => exact ⟨op, Config.pktOp_some hop, by simpa [hop] using h⟩

theorem modeDataWrite_eq (n : Nat) (s : State) :
    modeDataWrite n s = .next
      (if s.pcnt - n ≤ 0 then
        { s with pcnt := s.pcnt - n, status := withBit s.status 3 false, pstate := .normal
                 irq := s.irq || !s.nIEN }
      else { s with pcnt := s.pcnt - n }) := by
  unfold modeDataWrite
  by_cases h : s.pcnt - n ≤ 0
  · simp only [h, if_true, State.raiseIrqIfUnmasked_eq]; rfl
  · simp only [h, if_false]

/-- Everything a data write that goes on can do. -/
theorem execWData_next {d : List Byte} {s t : State} (h : execWData d s = .next t) :
    (s.pstate = .normal ∧ t = s) ∨
    (s.pstate = .awaitingPacket ∧ s.pcnt ≠ 10 ∧ t = appendPacketWord (halfOf d) s) ∨
    (∃ p op, CompletesPacket s d p ∧ s.cfg.pktCode op = p[0] ∧
      runPacket op p { s with pkt := p, pcnt := 12 } = .next t) ∨
    (s.pstate = .awaitingModeData ∧ 0 < s.pcnt - d.length ∧
      t = { s with pcnt := s.pcnt - d.length }) ∨
    (s.pstate = .awaitingModeData ∧ s.pcnt - d.length ≤ 0 ∧
      t = { s with pcnt := s.pcnt - d.length, status := withBit s.status 3 false,
                   pstate := .normal, irq := s.irq || !s.nIEN }) := by
  cases hp : s.pstate with
  | normal => simp only [execWData, hp] at h; cases h; exact .inl ⟨rfl, rfl⟩
  | awaitingPacket =>
    by_cases hc : s.pcnt = 10
    · have hcp := completesPacket_of hp hc d
      rw [execWData_completes hcp] at h
      obtain ⟨op, h1, h2⟩ := dispatchPacket_next h
      exact .inr (.inr (.inl ⟨_, op, hcp, h1, h2⟩))
    · simp only [execWData, hp, packetWrite_eq, hc, if_false] at h
      cases h; exact .inr (.inl ⟨rfl, hc, rfl⟩)
  | awaitingModeData =>
    simp only [execWData, hp, modeDataWrite_eq] at h
    by_cases hc : s.pcnt - d.length ≤ 0
    · rw [if_pos hc] at h; cases h; exact .inr (.inr (.inr (.inr ⟨rfl, hc, rfl⟩)))
    · rw [if_neg hc] at h; cases h
      exact .inr (.inr (.inr (.inl ⟨rfl, by omega, rfl⟩)))

/-- The data read as one update. -/
theorem execRData_eq (len : Nat) (s : State) :
    execRData len s = .next
      (if (consumeBytes len s.q).1 ≠ [] ∧ queueEmpty (consumeBytes len s.q).2 then
        { s with
          q := (consumeBytes len s.q).2, readData := zeroFill len (consumeBytes len s.q).1
          status := withBit (withBit (withBit s.status 3 false) 7 false) 6 true
          irq := s.irq || !s.nIEN }
      else { s with
        q := (consumeBytes len s.q).2, readData := zeroFill len (consumeBytes len s.q).1 }) := by
  unfold execRData State.pioDone
  simp only [State.raiseIrqIfUnmasked_eq, State.transferDone_eq]
  split <;> rfl

/-! ## The trigger -/

theorem drainTotal_le (s : State) : drainTotal s ≤ s.gdlen.toNat ∧ drainTotal s < 2 ^ 32 := by
  have := s.gdlen.isLt
  simp only [drainTotal]; omega

/-- The state after a drain. -/
def drained (s : State) : State :=
  { s with
    q := (consumeBytes (drainTotal s) s.q).2
    gmem := writeRun s.gdapro s.gdstar (consumeBytes (drainTotal s) s.q).1 s.gmem
    gdlend := BitVec.ofNat 32 (drainTotal s)
    status := withBit (withBit (withBit s.status 3 false) 7 false) 6 true
    irq := s.irq || !s.nIEN
    dmaEndLine := s.dmaEndLine || s.cfg.dmaEndIrq.isSome
    gdst := 0#32 }

theorem execWGdst_drain {d : List Byte} {s : State} (h0 : wordOf d ≠ 0#32)
    (h1 : s.dmaEnabled = true) (h2 : s.dmaToMemory = true) :
    execWGdst d s = .next (drained s) := by
  unfold execWGdst drainComplete drain
  simp only [h0, h1, h2, if_true, if_false, State.raiseDmaEnd_eq, State.raiseIrqIfUnmasked_eq,
    State.transferDone_eq]
  rfl

/-- Everything a trigger write that goes on can do. -/
theorem execWGdst_next {d : List Byte} {s t : State} (h : execWGdst d s = .next t) :
    (wordOf d = 0#32 ∧ t = s) ∨
    (wordOf d ≠ 0#32 ∧ s.dmaEnabled = false ∧ t = { s with gdst := 0#32 }) ∨
    (wordOf d ≠ 0#32 ∧ s.dmaEnabled = true ∧ s.dmaToMemory = true ∧ t = drained s) := by
  by_cases h0 : wordOf d = 0#32
  · simp only [execWGdst, h0, if_true] at h; cases h; exact .inl ⟨h0, rfl⟩
  · cases h1 : s.dmaEnabled with
    | false =>
      simp only [execWGdst, h0, h1, if_false, Bool.false_eq_true] at h; cases h
      exact .inr (.inl ⟨h0, rfl, rfl⟩)
    | true =>
      cases h2 : s.dmaToMemory with
      | false => simp [execWGdst, h0, h1, h2] at h
      | true =>
        rw [execWGdst_drain h0 h1 h2] at h; cases h
        exact .inr (.inr ⟨h0, rfl, rfl, rfl⟩)

theorem wordOf_eq_zero_iff (d : List Byte) : wordOf d = 0#32 ↔ leValue d % 2 ^ 32 = 0 := by
  rw [← BitVec.toNat_inj, wordOf_toNat]; simp

end Sys2Proof.Machine
end

