-- ==== Sys2Proof/Laws/PerInstr.lean ====
section
/-!
SUPPORT. Facts about every instruction as syntax, one lemma per constructor. `FrameLength`: how many
bytes an instruction's encoding has: 6 for a register read and 6 more than the data for a write (the
layout of Decode.lean), 1 for an ATA command (spec/30_encoding.md R82), 12 for a packet (R84).
-/

namespace Sys2Proof

/-- The number of bytes of an instruction's encoding. -/
def Instr.frameLength (i : Instr) : Nat :=
  match i.format with
  | .bus =>
    match i with
    | .wStatusCommand d | .wAltstatDevctrl d | .wData d | .wErrorFeatures d
    | .wIntreasonSectcnt d | .wSectnum d | .wBytecntLo d | .wBytecntHi d | .wDrvsel d
    | .wGdapro d | .wGdstar d | .wGdlen d | .wGddir d | .wGden d | .wGdst d | .wGdlend d =>
      6 + d.length
    | _ => 6
  | .ata => 1
  | .pkt => 12

theorem encodeRead_length (c : Config) (r : Reg) (n : Nat) : (encodeRead c r n).length = 6 := by
  simp [encodeRead, Access.bytes]

theorem encodeWrite_length (c : Config) (r : Reg) (d : List Byte) :
    (encodeWrite c r d).length = 6 + d.length := by
  simp [encodeWrite, Access.bytes]; omega

end Sys2Proof

namespace Sys2Proof.Laws.FrameLength

/-- The encoding has the length of its format. -/
def Statement (i : Instr) : Prop := ∀ c : Config, (encode c i).length = i.frameLength

theorem rStatusCommand (len : Nat) : Statement (.rStatusCommand len) := fun c => encodeRead_length c _ _
theorem wStatusCommand (data : List Byte) : Statement (.wStatusCommand data) := fun c => encodeWrite_length c _ _
theorem rAltstatDevctrl (len : Nat) : Statement (.rAltstatDevctrl len) := fun c => encodeRead_length c _ _
theorem wAltstatDevctrl (data : List Byte) : Statement (.wAltstatDevctrl data) := fun c => encodeWrite_length c _ _
theorem rData (len : Nat) : Statement (.rData len) := fun c => encodeRead_length c _ _
theorem wData (data : List Byte) : Statement (.wData data) := fun c => encodeWrite_length c _ _
theorem rErrorFeatures (len : Nat) : Statement (.rErrorFeatures len) := fun c => encodeRead_length c _ _
theorem wErrorFeatures (data : List Byte) : Statement (.wErrorFeatures data) := fun c => encodeWrite_length c _ _
theorem rIntreasonSectcnt (len : Nat) : Statement (.rIntreasonSectcnt len) := fun c => encodeRead_length c _ _
theorem wIntreasonSectcnt (data : List Byte) : Statement (.wIntreasonSectcnt data) := fun c => encodeWrite_length c _ _
theorem rSectnum (len : Nat) : Statement (.rSectnum len) := fun c => encodeRead_length c _ _
theorem wSectnum (data : List Byte) : Statement (.wSectnum data) := fun c => encodeWrite_length c _ _
theorem rBytecntLo (len : Nat) : Statement (.rBytecntLo len) := fun c => encodeRead_length c _ _
theorem wBytecntLo (data : List Byte) : Statement (.wBytecntLo data) := fun c => encodeWrite_length c _ _
theorem rBytecntHi (len : Nat) : Statement (.rBytecntHi len) := fun c => encodeRead_length c _ _
theorem wBytecntHi (data : List Byte) : Statement (.wBytecntHi data) := fun c => encodeWrite_length c _ _
theorem rDrvsel (len : Nat) : Statement (.rDrvsel len) := fun c => encodeRead_length c _ _
theorem wDrvsel (data : List Byte) : Statement (.wDrvsel data) := fun c => encodeWrite_length c _ _
theorem rGdapro (len : Nat) : Statement (.rGdapro len) := fun c => encodeRead_length c _ _
theorem wGdapro (data : List Byte) : Statement (.wGdapro data) := fun c => encodeWrite_length c _ _
theorem rGdstar (len : Nat) : Statement (.rGdstar len) := fun c => encodeRead_length c _ _
theorem wGdstar (data : List Byte) : Statement (.wGdstar data) := fun c => encodeWrite_length c _ _
theorem rGdlen (len : Nat) : Statement (.rGdlen len) := fun c => encodeRead_length c _ _
theorem wGdlen (data : List Byte) : Statement (.wGdlen data) := fun c => encodeWrite_length c _ _
theorem rGddir (len : Nat) : Statement (.rGddir len) := fun c => encodeRead_length c _ _
theorem wGddir (data : List Byte) : Statement (.wGddir data) := fun c => encodeWrite_length c _ _
theorem rGden (len : Nat) : Statement (.rGden len) := fun c => encodeRead_length c _ _
theorem wGden (data : List Byte) : Statement (.wGden data) := fun c => encodeWrite_length c _ _
theorem rGdst (len : Nat) : Statement (.rGdst len) := fun c => encodeRead_length c _ _
theorem wGdst (data : List Byte) : Statement (.wGdst data) := fun c => encodeWrite_length c _ _
theorem rGdlend (len : Nat) : Statement (.rGdlend len) := fun c => encodeRead_length c _ _
theorem wGdlend (data : List Byte) : Statement (.wGdlend data) := fun c => encodeWrite_length c _ _
theorem nop : Statement (.nop) := by intro c; rfl
theorem reset : Statement (.reset) := by intro c; rfl
theorem diagnostic : Statement (.diagnostic) := by intro c; rfl
theorem packet : Statement (.packet) := by intro c; rfl
theorem identify : Statement (.identify) := by intro c; rfl
theorem setFeatures : Statement (.setFeatures) := by intro c; rfl
theorem testUnitReady : Statement (.testUnitReady) := by intro c; rfl
theorem reqMode (start len : Byte) : Statement (.reqMode start len) := by intro c; rfl
theorem setMode : Statement (.setMode) := by intro c; rfl
theorem reqError (len : Byte) : Statement (.reqError len) := by intro c; rfl
theorem readToc (session : BitVec 1) (alloc : Half) : Statement (.readToc session alloc) := by intro c; rfl
theorem read (sel : BitVec 4) (exp : BitVec 3) (ptype : BitVec 1) (fad cnt : BitVec 24) : Statement (.read sel exp ptype fad cnt) := by intro c; rfl
theorem startDisk : Statement (.startDisk) := by intro c; rfl
theorem vendor71 : Statement (.vendor71) := by intro c; rfl

end Sys2Proof.Laws.FrameLength
end

