-- ==== Sys2Proof/Laws/Steps.lean ====
section
/-!
SUPPORT. Steps and their stops: the step of an access to a register, a run as its steps, one word of
a packet, and everything a command or a packet that does not go on can end in.
-/

namespace Sys2Proof.Machine

/-! ## Steps -/

/-- The step of a legal access to a register is that register's read or write. -/
theorem step_reg {s : State} {a : Access} {rest : List Access} {r : Reg} (hw : s.cfg.Wf)
    (hp : s.pending = a :: rest) (ha : AccessTo s.cfg a r) :
    step s = exec (a.instr r) { s with pending := rest } := by
  simp [step, hp, decodeAccess_reg hw ha]

/-- A run of several steps goes on from the state after the first. -/
theorem core_run_succ {s t : State} (h : step s = .next t) (k : Nat) :
    Host.Core.run Sys2Proof.core (k + 1) s = Host.Core.run Sys2Proof.core k t := by
  have h' : Sys2Proof.core.step s = .next t := h
  simp only [Host.Core.run, h']

/-- A run of one step is that step. -/
theorem core_run_one (s : State) : Host.Core.run Sys2Proof.core 1 s = step s := by
  have h' : Sys2Proof.core.step s = step s := rfl
  simp only [Host.Core.run, h']
  cases step s <;> rfl

/-! ## Data writes -/

theorem execWData_awaiting {s : State} (h : s.pstate = .awaitingPacket) (d : List Byte) :
    execWData d s = packetWrite (halfOf d) s := by unfold execWData; simp only [h]

theorem execWData_modeData {s : State} (h : s.pstate = .awaitingModeData) (d : List Byte) :
    execWData d s = modeDataWrite d.length s := by unfold execWData; simp only [h]

/-- A 16-bit write carries its two bytes, low byte first (R56). -/
theorem halfOf_pair (a b : Byte) : lowByte (halfOf [a, b]) = a ∧ highByte (halfOf [a, b]) = b := by
  have ha := a.isLt
  have hb := b.isLt
  constructor <;> apply BitVec.eq_of_toNat_eq
  · rw [lowByte_toNat, halfOf_toNat]; simp [leValue]; omega
  · rw [highByte_toNat, halfOf_toNat]; simp [leValue]; omega

/-- One 16-bit data write before the last of a packet, as a step. -/
theorem step_packetWord {s : State} {a b : Byte} {rest : List Access} (hw : s.cfg.Wf)
    (hl : s.cfg.lenOk 2 = true) (h : s.pstate = .awaitingPacket) (hc : s.pcnt ≠ 10)
    (hp : s.pending = .write (s.cfg.addrOf .data) [a, b] :: rest) :
    step s = .next { s with
      pending := rest
      pkt := (s.pkt.setIfInBounds s.pcnt.toNat a).setIfInBounds (s.pcnt.toNat + 1) b
      pcnt := s.pcnt + 2 } := by
  rw [step_reg (r := .data) hw hp ⟨rfl, hl⟩]
  show execWData [a, b] _ = _
  rw [execWData_awaiting (by exact h), packetWrite_eq, if_neg (by exact hc)]
  simp only [appendPacketWord, halfOf_pair]

/-- The same by what it leaves, with the counter as a number: everything but PKT, PCNT and the pending
accesses stays. -/
theorem step_packetWord_counted {s : State} {a b : Byte} {rest : List Access} (k : Nat)
    (hw : s.cfg.Wf) (hl : s.cfg.lenOk 2 = true) (h : s.pstate = .awaitingPacket) (hk : s.pcnt = k)
    (hc : k ≠ 10) (hp : s.pending = .write (s.cfg.addrOf .data) [a, b] :: rest) :
    ∃ t, step s = .next t ∧ t.cfg = s.cfg ∧ t.pstate = .awaitingPacket ∧ t.pcnt = (k + 2 : Nat) ∧
      t.pending = rest ∧ t.pkt = (s.pkt.setIfInBounds k a).setIfInBounds (k + 1) b ∧
      ∀ p c r, { t with pkt := p, pcnt := c, pending := r } =
        { s with pkt := p, pcnt := c, pending := r } :=
  ⟨_, step_packetWord hw hl h (by omega) hp, rfl, h, by simp [hk], rfl, by simp [hk], fun _ _ _ => rfl⟩

/-- A packet whose opcode is decoded, as its command. -/
theorem dispatchPacket_eq {s : State} (hw : s.cfg.Wf) {op : PktOp} (h : s.cfg.pktCode op = s.pkt[0]) :
    dispatchPacket s = runPacket op s.pkt s := by
  unfold dispatchPacket; rw [← h, Config.pktOp_code hw]

/-- What the updates of AnnounceDataIn() say of the flags (R170). -/
theorem dataAnnounced_of {s t : State} (h1 : t.status = withBit s.status 3 true)
    (h2 : t.intreason = withBit (withBit s.intreason 0 false) 1 true)
    (h3 : t.irq = (s.irq || !s.nIEN)) : DataAnnounced s t := by
  refine ⟨?_, ?_, ?_, ?_, ?_, h3⟩
  all_goals simp only [State.drq, State.cod, State.io, h1, h2, withBit_getLsbD]
  all_goals simp +contextual

/-- What the updates of a completed transfer say of the flags (R212, R246). -/
theorem transferCompleted_of {s t : State}
    (h1 : t.status = withBit (withBit (withBit s.status 3 false) 7 false) 6 true)
    (h2 : t.irq = (s.irq || !s.nIEN)) : TransferCompleted s t := by
  refine ⟨?_, ?_, ?_, ?_, h2⟩
  all_goals simp only [State.drq, State.bsy, State.drdy, h1, withBit_getLsbD]
  all_goals simp +contextual

/-- A reply is the low bytes of the value, and nothing else (R55). -/
theorem replied_reply (s : State) (v : Word) (len : Nat) :
    Replied s (s.reply v len) v.toNat len := ⟨rfl, leBytes_length _ _, leValue_leBytes _ _⟩

/-- The security code of a written value, as a number. -/
theorem wordOf_code_iff (d : List Byte) (c : Half) :
    (wordOf d).extractLsb' 16 16 = c ↔ leValue d / 65536 % 65536 = c.toNat := by
  rw [← BitVec.toNat_inj, BitVec.extractLsb'_toNat, wordOf_toNat, Nat.shiftRight_eq_div_pow]; omega

/-! ## Register accesses and packet commands that go on -/

/-- Everything a register read that goes on can do. -/
theorem exec_read_next {r : Reg} {n : Nat} {s t : State} (h : exec (r.readInstr n) s = .next t) :
    (r ≠ .data ∧ r ≠ .statusCommand ∧ t = { s with readData := t.readData }) ∨
    (r = .statusCommand ∧ t = { s with readData := t.readData, irq := false }) ∨
    (r = .data ∧ execRData n s = .next t) := by
  cases r
  case data => exact .inr (.inr ⟨rfl, h⟩)
  case statusCommand => cases h; exact .inr (.inl ⟨rfl, rfl⟩)
  all_goals cases h; exact .inl ⟨by simp, by simp, rfl⟩

/-- Everything a register write that goes on can do. -/
theorem exec_write_next {r : Reg} {d : List Byte} {s t : State}
    (h : exec (r.writeInstr d) s = .next t) :
    (r ≠ .statusCommand ∧ r ≠ .data ∧ r ≠ .gdapro ∧ r ≠ .gdst ∧
      t = { s with devctrl := t.devctrl, features := t.features, sectcnt := t.sectcnt,
                   sectnum := t.sectnum, bytecnt := t.bytecnt, drvsel := t.drvsel,
                   gdstar := t.gdstar, gdlen := t.gdlen, gddir := t.gddir, gden := t.gden }) ∨
    (r = .statusCommand ∧ commandWrite (byteOf d) s = .next t) ∨
    (r = .data ∧ execWData d s = .next t) ∨
    (r = .gdapro ∧ (t = s ∨ (wordOf d).extractLsb' 16 16 = s.cfg.gdaproCode ∧
      t = { s with gdapro := wordOf d &&& gdaproMask })) ∨
    (r = .gdst ∧ execWGdst d s = .next t) := by
  cases r
  case data => exact .inr (.inr (.inl ⟨rfl, h⟩))
  case statusCommand => exact .inr (.inl ⟨rfl, h⟩)
  case gdst => exact .inr (.inr (.inr (.inr ⟨rfl, h⟩)))
  case gdapro =>
    refine .inr (.inr (.inr (.inl ⟨rfl, ?_⟩)))
    have h' : execWGdapro d s = .next t := h
    unfold execWGdapro at h'
    split at h' <;> cases h'
    · exact .inr ⟨‹_›, rfl⟩
    · exact .inl rfl
  all_goals cases h; exact .inl ⟨by simp, by simp, by simp, by simp, rfl⟩

/-- What a packet command that queues a response leaves in BYTECNT, and the bytes it queues. -/
def packetResponse (op : PktOp) (p : Packet) (s : State) : Option (Half × List Byte) :=
  match op with
  | .reqMode => some (if p.reqModeLen = 0#8 then s.bytecnt
      else BitVec.ofNat 16 (modeCount p.reqModeStart p.reqModeLen),
      modeResponse s.cfg p.reqModeStart p.reqModeLen)
  | .reqError => some (s.bytecnt, (errorResponse s.sense s.asc).take (min p.reqErrorLen.toNat errRespLen))
  | .readToc => some (s.bytecnt,
      (mountToc s.cfg.mount p.tocSession).take (min p.tocAlloc.toNat s.cfg.tocMax))
  | .vendor71 => some (BitVec.ofNat 16 s.cfg.pkt71Blob.length, s.cfg.pkt71Blob)
  | .testUnitReady => none
  | .setMode => none
  | .read => none
  | .startDisk => none

/-- The state such a command leaves. -/
def responded (s : State) (n : Half) (b : List Byte) : State :=
  { s with
    q := responseQueue b, bytecnt := n, pstate := .normal
    status := withBit s.status 3 true
    intreason := withBit (withBit s.intreason 0 false) 1 true
    irq := s.irq || !s.nIEN }

/-- A packet command that queues a response, as one response. -/
theorem runPacket_eq_respond {op : PktOp} {p : Packet} {s : State} {n : Half} {b : List Byte}
    (h : packetResponse op p s = some (n, b)) :
    runPacket op p s = respond { s with pstate := .normal, bytecnt := n } b := by
  cases op <;> simp only [packetResponse, Option.some.injEq, Prod.mk.injEq, reduceCtorEq] at h
  case reqMode => obtain ⟨rfl, rfl⟩ := h; exact execReqMode_eq _ _ _
  all_goals obtain ⟨rfl, rfl⟩ := h; rfl

/-- Everything a packet command that goes on can do. -/
theorem runPacket_next {op : PktOp} {p : Packet} {s t : State} (h : runPacket op p s = .next t) :
    (op = .testUnitReady ∧ execTestUnitReady s = .next t) ∨
    (op = .startDisk ∧ execStartDisk s = .next t) ∨
    (op = .setMode ∧ execSetMode s = .next t) ∨
    (op = .read ∧ execRead p.readSel p.readPtype p.readFad p.readCnt s = .next t) ∨
    ((op = .reqMode ∨ op = .reqError ∨ op = .readToc ∨ op = .vendor71) ∧
      ∃ n b, packetResponse op p s = some (n, b) ∧ t = responded s n b ∧
        ∀ k, s.cfg.queueMaxNodes = some k → (responseQueue b).length ≤ k) := by
  have hr : ∀ n b, packetResponse op p s = some (n, b) → t = responded s n b ∧
      ∀ k, s.cfg.queueMaxNodes = some k → (responseQueue b).length ≤ k := by
    intro n b hp
    rw [runPacket_eq_respond hp] at h
    obtain ⟨h1, h2⟩ := respond_next h
    rw [h1, State.announceDataIn_eq]; exact ⟨rfl, h2⟩
  cases op
  case testUnitReady => exact .inl ⟨rfl, h⟩
  case startDisk => exact .inr (.inl ⟨rfl, h⟩)
  case setMode => exact .inr (.inr (.inl ⟨rfl, h⟩))
  case read => exact .inr (.inr (.inr (.inl ⟨rfl, h⟩)))
  all_goals exact .inr (.inr (.inr (.inr ⟨by simp, _, _, rfl, hr _ _ rfl⟩)))

/-- What no packet command changes. -/
theorem runPacket_frame {op : PktOp} {p : Packet} {s t : State} (h : runPacket op p s = .next t) :
    t = { s with status := t.status, error := t.error, asc := t.asc, intreason := t.intreason,
                 bytecnt := t.bytecnt, pstate := t.pstate, pcnt := t.pcnt, q := t.q,
                 irq := t.irq } := by
  rcases runPacket_next h with ⟨-, h⟩ | ⟨-, h⟩ | ⟨-, h⟩ | ⟨-, h⟩ | ⟨-, n, b, -, rfl, -⟩
  · rw [execTestUnitReady_eq] at h; cases h; rfl
  · rw [execStartDisk_eq] at h; cases h; rfl
  · obtain ⟨-, rfl⟩ := execSetMode_next h; rfl
  · obtain ⟨-, -, ⟨bs, -, -, -, rfl⟩ | ⟨bs, -, -, -, -, rfl⟩⟩ := execRead_next h <;> rfl
  · rfl

/-- A response fits a node (R26, R180). -/
theorem packetResponse_length {op : PktOp} {p : Packet} {s : State} {n : Half} {b : List Byte}
    (hw : s.cfg.Wf) (h : packetResponse op p s = some (n, b)) : b.length ≤ s.cfg.nodeCap := by
  have hn := hw.nodeCap.1
  have ht := hw.toc
  have hv := hw.pkt71.2
  cases op <;> simp only [packetResponse, Option.some.injEq, Prod.mk.injEq, reduceCtorEq] at h
  case reqMode => obtain ⟨rfl, rfl⟩ := h; exact modeResponse_length_le hw _ _
  case reqError =>
    obtain ⟨rfl, rfl⟩ := h
    simp only [List.length_take, errorResponse, List.length_cons, List.length_nil, identLen] at hn ⊢
    omega
  case readToc => obtain ⟨rfl, rfl⟩ := h; rw [List.length_take]; omega
  case vendor71 => obtain ⟨rfl, rfl⟩ := h; exact hv

/-! ## Frames -/

theorem execRData_frame {n : Nat} {s t : State} (h : execRData n s = .next t) :
    t = { s with q := t.q, readData := t.readData, status := t.status, irq := t.irq } := by
  rw [execRData_eq] at h; cases h; split <;> rfl

theorem commandWrite_frame {cmd : Byte} {s t : State} (h : commandWrite cmd s = .next t) :
    t = { s with status := t.status, intreason := t.intreason, pcnt := t.pcnt,
                 pstate := t.pstate, q := t.q, irq := t.irq, tmode := t.tmode } := by
  obtain ⟨-, op, -, h⟩ := commandWrite_next h
  rcases runCommand_next h with ⟨-, rfl⟩ | ⟨-, rfl⟩ | ⟨-, -, rfl⟩ | ⟨-, rfl⟩ <;> rfl

theorem execWData_frame {d : List Byte} {s t : State} (h : execWData d s = .next t) :
    t = { s with status := t.status, error := t.error, asc := t.asc, intreason := t.intreason,
                 bytecnt := t.bytecnt, pstate := t.pstate, pcnt := t.pcnt, pkt := t.pkt, q := t.q,
                 irq := t.irq } := by
  rcases execWData_next h with ⟨-, rfl⟩ | ⟨-, -, rfl⟩ | ⟨p, op, -, -, ht⟩ | ⟨-, -, rfl⟩ | ⟨-, -, rfl⟩
  · rfl
  · rfl
  · rw [runPacket_frame ht]
  · rfl
  · rfl

theorem execWGdst_frame {d : List Byte} {s t : State} (h : execWGdst d s = .next t) :
    t = { s with q := t.q, gmem := t.gmem, gdlend := t.gdlend, status := t.status, irq := t.irq,
                 dmaEndLine := t.dmaEndLine, gdst := t.gdst } := by
  rcases execWGdst_next h with ⟨-, rfl⟩ | ⟨-, -, rfl⟩ | ⟨-, -, -, rfl⟩ <;> rfl

/-! ## Stops -/

theorem respond_fault {s : State} {b : List Byte} {f : Fault} (h : respond s b = .fault f) :
    f = .allocationFailure ∧ b ≠ [] ∧ s.cfg.queueMaxNodes = some 0 := by
  rcases respond_cases s b with h' | ⟨h', h2, h3⟩ <;> rw [h'] at h <;> cases h
  exact ⟨rfl, h2, h3⟩

/-- Every fault of READ (R181). -/
theorem execRead_fault {sel : BitVec 4} {ptype : BitVec 1} {fad cnt : BitVec 24} {s : State}
    {f : Fault} (h : execRead sel ptype fad cnt s = .fault f) :
    (f = .unimplementedFeature .readSelection ∧ sel ≠ 2#4) ∨
    (f = .unimplementedFeature .readAddressing ∧ sel = 2#4 ∧ ptype ≠ 0#1) ∨
    (f = .allocationFailure ∧ sel = 2#4 ∧ ptype = 0#1 ∧
      ∃ m, s.cfg.queueMaxNodes = some m ∧ m < cnt.toNat) := by
  unfold execRead at h
  split at h
  · cases h; exact .inl ⟨rfl, ‹_›⟩
  · split at h
    · cases h; exact .inr (.inl ⟨rfl, by simp_all, ‹_›⟩)
    · rcases readSectors_cases s.cfg cnt.toNat fad.toNat [] with ⟨bs, -, -, -, h4⟩ |
        ⟨bs, -, -, -, -, h5⟩ | ⟨k, h1, h2, h3⟩
      · rw [h4] at h; simp at h
      · rw [h5] at h; simp at h
      · rw [h3] at h; cases h
        exact .inr (.inr ⟨rfl, by simp_all, by simp_all, k, h1, by simpa using h2⟩)

/-- Every fault of a packet command. -/
theorem runPacket_fault {op : PktOp} {p : Packet} {s : State} {f : Fault}
    (h : runPacket op p s = .fault f) :
    (op = .setMode ∧ s.featDma = true ∧ f = .unimplementedFeature .setModeDma) ∨
    (op = .read ∧ f = .unimplementedFeature .readSelection ∧ p.readSel ≠ 2#4) ∨
    (op = .read ∧ f = .unimplementedFeature .readAddressing ∧ p.readSel = 2#4 ∧
      p.readPtype ≠ 0#1) ∨
    (op = .read ∧ f = .allocationFailure ∧
      ∃ m, s.cfg.queueMaxNodes = some m ∧ m < p.readCnt.toNat) ∨
    (f = .allocationFailure ∧ s.cfg.queueMaxNodes = some 0 ∧
      (op = .reqMode ∨ op = .reqError ∨ op = .readToc ∨ op = .vendor71)) := by
  cases op with
  | testUnitReady => rw [show runPacket .testUnitReady p s = _ from execTestUnitReady_eq s] at h; cases h
  | startDisk => rw [show runPacket .startDisk p s = _ from execStartDisk_eq s] at h; cases h
  | reqMode =>
    rw [show runPacket .reqMode p s = _ from execReqMode_eq _ _ s] at h
    obtain ⟨h1, -, h3⟩ := respond_fault h
    simp only at h3; simp [h1, h3]
  | reqError =>
    obtain ⟨h1, -, h3⟩ := respond_fault (show respond _ _ = _ from h)
    simp only [State.packetDone_cfg] at h3; simp [h1, h3]
  | readToc =>
    obtain ⟨h1, -, h3⟩ := respond_fault (show respond _ _ = _ from h)
    simp only [State.packetDone_cfg] at h3; simp [h1, h3]
  | vendor71 =>
    obtain ⟨h1, -, h3⟩ := respond_fault (show respond _ _ = _ from h)
    simp only [State.packetDone_cfg] at h3; simp [h1, h3]
  | setMode =>
    have h' : execSetMode s = .fault f := h
    unfold execSetMode at h'
    split at h' <;> cases h'
    simp [*]
  | read =>
    rcases execRead_fault (show execRead _ _ _ _ s = _ from h) with ⟨h1, h2⟩ | ⟨h1, h2, h3⟩ |
      ⟨h1, -, -, h2⟩
    · exact .inr (.inl ⟨rfl, h1, h2⟩)
    · exact .inr (.inr (.inl ⟨rfl, h1, h2, h3⟩))
    · exact .inr (.inr (.inr (.inl ⟨rfl, h1, h2⟩)))

theorem runPacket_ne_refused (op : PktOp) (p : Packet) (s : State) (r : Refusal) :
    runPacket op p s ≠ .refused r := by
  have hr : ∀ (t : State) (b : List Byte), respond t b ≠ .refused r := fun t b => by
    rcases respond_cases t b with h | ⟨h, -⟩ <;> simp [h]
  cases op with
  | testUnitReady => rw [show runPacket .testUnitReady p s = _ from execTestUnitReady_eq s]; simp
  | startDisk => rw [show runPacket .startDisk p s = _ from execStartDisk_eq s]; simp
  | reqMode => rw [show runPacket .reqMode p s = _ from execReqMode_eq _ _ s]; exact hr _ _
  | reqError => exact hr _ _
  | readToc => exact hr _ _
  | vendor71 => exact hr _ _
  | setMode => show execSetMode s ≠ _; unfold execSetMode; split <;> simp
  | read =>
    show execRead _ _ _ _ s ≠ _
    unfold execRead
    split
    · simp
    · split
      · simp
      · split <;> simp

/-- A command that is decoded ends in a next state; only IDENTIFY can fault (R155). -/
theorem runCommand_total {op : AtaOp} {s : State} (ho : s.CommandOpen) :
    (∃ t, runCommand op s = .next t) ∨
    (op = .identify ∧ runCommand op s = .fault .allocationFailure ∧
      s.cfg.queueMaxNodes = some 0) := by
  cases op with
  | identify =>
    show (∃ t, execIdentify s = .next t) ∨ _
    rcases execIdentify_cases ho with ⟨h, -⟩ | ⟨h, hk⟩
    · exact .inl ⟨_, h⟩
    · exact .inr ⟨rfl, h, hk⟩
  | nop => exact .inl ⟨_, commandGate_open ho _⟩
  | reset => exact .inl ⟨_, commandGate_open ho _⟩
  | diagnostic => exact .inl ⟨_, commandGate_open ho _⟩
  | packet => exact .inl ⟨_, execPacket_eq ho⟩
  | setFeatures => exact .inl ⟨_, execSetFeatures_eq ho⟩

theorem runCommand_closed {op : AtaOp} {s : State} (h : ¬ s.CommandOpen) :
    runCommand op s = .refused .commandInNonNormal := by
  cases op with
  | packet => show execPacket s = _; unfold execPacket; exact commandGate_closed h _
  | identify => show execIdentify s = _; unfold execIdentify; exact commandGate_closed h _
  | setFeatures => show execSetFeatures s = _; unfold execSetFeatures; exact commandGate_closed h _
  | nop => exact commandGate_closed h _
  | reset => exact commandGate_closed h _
  | diagnostic => exact commandGate_closed h _

end Sys2Proof.Machine
end

