-- ==== Sys2Proof/Tests/Slice0.lean ====
section
/-!
SUPPORT. Tests: the smoke tests of well-formedness, a word written out from spec/30_encoding.md for
every constructor, the vectors of spec/95_test_vectors.md (their names in the comments) as single
steps on small states, and for the hypotheses of every obligation a theorem that meets them.
-/

namespace Sys2Proof.Tests

open Sys2Proof Sys2Proof.Machine

/-! ## A small machine -/

/-- The sector at a frame address of the test disc: 4 bytes. -/
def sector (n : Byte) : List Byte := [n, 1#8, 2#8, 3#8]

/-- Parameters with concrete blocks: MODE_BLOCK[i] is 0x40 + i, sectors of 4 bytes at the frame
addresses 150 and 151, tables of contents of 6 bytes. -/
def cfg0 : Config :=
  { Config.default with
    identBlock := List.replicate 79 0x11#8 ++ [0x22#8]
    modeBlock := [0x40#8, 0x41#8, 0x42#8, 0x43#8, 0x44#8, 0x45#8, 0x46#8, 0x47#8,
      0x48#8, 0x49#8, 0x4A#8, 0x4B#8, 0x4C#8, 0x4D#8, 0x4E#8, 0x4F#8,
      0x50#8, 0x51#8, 0x52#8, 0x53#8, 0x54#8, 0x55#8, 0x56#8, 0x57#8,
      0x58#8, 0x59#8, 0x5A#8, 0x5B#8, 0x5C#8, 0x5D#8, 0x5E#8, 0x5F#8]
    pkt71Blob := [0x71#8, 0x72#8, 0x73#8]
    tocMax := 6
    sectorSize := 4
    mount :=
      { present := true
        sectors := [(150, sector 0xA0#8), (151, sector 0xA1#8)]
        toc0 := [0#8, 1#8, 2#8, 3#8, 4#8, 5#8]
        toc1 := [10#8, 11#8, 12#8, 13#8, 14#8, 15#8] } }

/-- The state after reset with those parameters. -/
def s0 : State := State.resetOf cfg0

/-- The state after a failed command: STATUS 0x41, ERROR 0x20, ASC 0x3A. -/
def sErr : State := { s0 with status := 0x41#8, error := 0x20#8, asc := 0x3A#8, intreason := 3#8 }

/-- Four bytes queued, STATUS 0x08. -/
def sQ4 : State := { s0 with q := [⟨0, [1#8]⟩, ⟨0, [2#8, 3#8, 4#8]⟩], status := 0x08#8 }

/-- The drain set up: the window is 0x0C000000 to 0x0C0FFFFF, GDSTAR two bytes below its end. -/
def sDma : State :=
  { sQ4 with gdapro := 0x00004040#32, gdstar := 0x0C0FFFFE#32, gdlen := 3#32, gden := 1#32,
             gddir := 1#32 }

/-- Awaiting the last word of the packet `p`, the write of which is pending. -/
def sLast (p : Packet) : State :=
  { s0 with pstate := .awaitingPacket, pcnt := 10, pkt := p, status := 0x08#8, intreason := 1#8,
            pending := [.write 0x005F7080#32 [p[10], p[11]]] }

/-- A packet whose bytes after the first five are 0 but for the eleventh. -/
def pk (a b c d e f : Byte) : Packet := #v[a, b, c, d, e, 0#8, 0#8, 0#8, 0#8, 0#8, f, 0#8]

/-- Whether an outcome is a next state that has the property. -/
def ok (o : Out) (f : State → Bool) : Bool :=
  match o with
  | .next t => f t
  | .fault _ => false
  | .refused _ => false

/-- Whether an outcome is a given fault. -/
def faults (o : Out) (e : Fault) : Bool :=
  match o with
  | .next _ => false
  | .fault f => f == e
  | .refused _ => false

/-- Whether an outcome is a given refusal. -/
def refuses (o : Out) (e : Refusal) : Bool :=
  match o with
  | .next _ => false
  | .fault _ => false
  | .refused f => f == e

/-! ## Well-formedness -/

/-- A length outside ACCESS_LENGTHS (spec/20_memory.md R54). -/
theorem test_wf_length_not_listed :
    Instr.wf .default (.rData 3) = false ∧ Instr.wf .default (.wData []) = false := by decide

/-- A length above the declared one (spec/40_register_dispatch.md R113). -/
theorem test_wf_length_too_long :
    Instr.wf { Config.default with regLen := 2 } (.wGdlen [1#8, 2#8, 3#8, 4#8]) = false := by decide

theorem test_wf_accepts :
    Instr.wf .default (.rData 4) = true ∧ Instr.wf .default .identify = true := by decide

/-! ## Decoding: words written out from spec/30_encoding.md R81 to R93 -/

/-- The sixteen reads (this theorem and the next two): address least significant byte first, direction 0, length less one. -/
theorem test_decode_reads :
    decode .default .bus [0x9C#8, 0x70#8, 0x5F#8, 0#8, 0#8, 3#8] = .ok (.rStatusCommand 4, []) ∧
    decode .default .bus [0x18#8, 0x70#8, 0x5F#8, 0#8, 0#8, 1#8] = .ok (.rAltstatDevctrl 2, []) ∧
    decode .default .bus [0x80#8, 0x70#8, 0x5F#8, 0#8, 0#8, 0#8] = .ok (.rData 1, []) ∧
    decode .default .bus [0x84#8, 0x70#8, 0x5F#8, 0#8, 0#8, 3#8] = .ok (.rErrorFeatures 4, []) := by
  decide

theorem test_decode_reads_2 :
    decode .default .bus [0x88#8, 0x70#8, 0x5F#8, 0#8, 0#8, 3#8] = .ok (.rIntreasonSectcnt 4, []) ∧
    decode .default .bus [0x8C#8, 0x70#8, 0x5F#8, 0#8, 0#8, 3#8] = .ok (.rSectnum 4, []) ∧
    decode .default .bus [0x90#8, 0x70#8, 0x5F#8, 0#8, 0#8, 3#8] = .ok (.rBytecntLo 4, []) ∧
    decode .default .bus [0x94#8, 0x70#8, 0x5F#8, 0#8, 0#8, 3#8] = .ok (.rBytecntHi 4, []) ∧
    decode .default .bus [0x98#8, 0x70#8, 0x5F#8, 0#8, 0#8, 3#8] = .ok (.rDrvsel 4, []) := by
  decide

theorem test_decode_reads_dma :
    decode .default .bus [0xB8#8, 0x74#8, 0x5F#8, 0#8, 0#8, 3#8] = .ok (.rGdapro 4, []) ∧
    decode .default .bus [0x04#8, 0x74#8, 0x5F#8, 0#8, 0#8, 3#8] = .ok (.rGdstar 4, []) ∧
    decode .default .bus [0x08#8, 0x74#8, 0x5F#8, 0#8, 0#8, 3#8] = .ok (.rGdlen 4, []) ∧
    decode .default .bus [0x0C#8, 0x74#8, 0x5F#8, 0#8, 0#8, 3#8] = .ok (.rGddir 4, []) ∧
    decode .default .bus [0x14#8, 0x74#8, 0x5F#8, 0#8, 0#8, 3#8] = .ok (.rGden 4, []) ∧
    decode .default .bus [0x18#8, 0x74#8, 0x5F#8, 0#8, 0#8, 3#8] = .ok (.rGdst 4, []) ∧
    decode .default .bus [0xF8#8, 0x74#8, 0x5F#8, 0#8, 0#8, 3#8] = .ok (.rGdlend 4, []) := by
  decide

/-- The sixteen writes (this theorem and the next two), direction 1, the data last; one byte follows
the first. -/
theorem test_decode_writes :
    decode .default .bus [0x9C#8, 0x70#8, 0x5F#8, 0#8, 1#8, 0#8, 0xA1#8, 7#8] =
      .ok (.wStatusCommand [0xA1#8], [7#8]) ∧
    decode .default .bus [0x18#8, 0x70#8, 0x5F#8, 0#8, 1#8, 0#8, 2#8] =
      .ok (.wAltstatDevctrl [2#8], []) ∧
    decode .default .bus [0x80#8, 0x70#8, 0x5F#8, 0#8, 1#8, 1#8, 0x30#8, 0x20#8] =
      .ok (.wData [0x30#8, 0x20#8], []) ∧
    decode .default .bus [0x84#8, 0x70#8, 0x5F#8, 0#8, 1#8, 0#8, 1#8] =
      .ok (.wErrorFeatures [1#8], []) := by
  decide

theorem test_decode_writes_2 :
    decode .default .bus [0x88#8, 0x70#8, 0x5F#8, 0#8, 1#8, 0#8, 0x22#8] =
      .ok (.wIntreasonSectcnt [0x22#8], []) ∧
    decode .default .bus [0x8C#8, 0x70#8, 0x5F#8, 0#8, 1#8, 0#8, 9#8] = .ok (.wSectnum [9#8], []) ∧
    decode .default .bus [0x90#8, 0x70#8, 0x5F#8, 0#8, 1#8, 0#8, 9#8] = .ok (.wBytecntLo [9#8], []) ∧
    decode .default .bus [0x94#8, 0x70#8, 0x5F#8, 0#8, 1#8, 0#8, 9#8] = .ok (.wBytecntHi [9#8], []) ∧
    decode .default .bus [0x98#8, 0x70#8, 0x5F#8, 0#8, 1#8, 0#8, 9#8] = .ok (.wDrvsel [9#8], []) := by
  decide

theorem test_decode_writes_dma :
    decode .default .bus [0xB8#8, 0x74#8, 0x5F#8, 0#8, 1#8, 3#8, 0x7F#8, 0x40#8, 0x43#8, 0x88#8] =
      .ok (.wGdapro [0x7F#8, 0x40#8, 0x43#8, 0x88#8], []) ∧
    decode .default .bus [0x04#8, 0x74#8, 0x5F#8, 0#8, 1#8, 0#8, 9#8] = .ok (.wGdstar [9#8], []) ∧
    decode .default .bus [0x08#8, 0x74#8, 0x5F#8, 0#8, 1#8, 0#8, 9#8] = .ok (.wGdlen [9#8], []) ∧
    decode .default .bus [0x0C#8, 0x74#8, 0x5F#8, 0#8, 1#8, 0#8, 9#8] = .ok (.wGddir [9#8], []) ∧
    decode .default .bus [0x14#8, 0x74#8, 0x5F#8, 0#8, 1#8, 0#8, 9#8] = .ok (.wGden [9#8], []) ∧
    decode .default .bus [0x18#8, 0x74#8, 0x5F#8, 0#8, 1#8, 0#8, 9#8] = .ok (.wGdst [9#8], []) ∧
    decode .default .bus [0xF8#8, 0x74#8, 0x5F#8, 0#8, 1#8, 0#8, 9#8] = .ok (.wGdlend [9#8], []) := by
  decide

/-- The six command bytes of R83. -/
theorem test_decode_commands :
    decodeCommand .default 0x00#8 = .ok .nop ∧ decodeCommand .default 0x08#8 = .ok .reset ∧
    decodeCommand .default 0x90#8 = .ok .diagnostic ∧ decodeCommand .default 0xA0#8 = .ok .packet ∧
    decodeCommand .default 0xA1#8 = .ok .identify ∧
    decodeCommand .default 0xEF#8 = .ok .setFeatures ∧
    decodeCommand .default 0xEC#8 = .error (.unknownCommand 0xEC#8) := by decide

/-- The eight packets of R86 to R93, with fields (V-PKT-8, V-PKT-23, V-PKT-28, V-PKT-20). -/
theorem test_decode_packets :
    decodePacket .default (pk 0x00#8 0xFF#8 0#8 0#8 0#8 0#8) = .ok .testUnitReady ∧
    decodePacket .default (pk 0x11#8 0#8 0x1E#8 0#8 4#8 0#8) = .ok (.reqMode 30#8 4#8) ∧
    decodePacket .default (pk 0x12#8 0#8 0#8 0#8 0#8 0#8) = .ok .setMode ∧
    decodePacket .default (pk 0x13#8 0#8 0#8 0#8 4#8 0#8) = .ok (.reqError 4#8) ∧
    decodePacket .default (pk 0x14#8 1#8 0#8 0x01#8 0x98#8 0#8) = .ok (.readToc 1#1 408#16) ∧
    decodePacket .default (pk 0x30#8 0x2E#8 0#8 0#8 0x96#8 2#8) =
      .ok (.read 2#4 7#3 0#1 150#24 2#24) ∧
    decodePacket .default (pk 0x70#8 0#8 0#8 0#8 0#8 0#8) = .ok .startDisk ∧
    decodePacket .default (pk 0x71#8 0xFF#8 0#8 0#8 0#8 0#8) = .ok .vendor71 ∧
    decodePacket .default (pk 0x10#8 0#8 0#8 0#8 0#8 0#8) = .error (.unknownPacket 0x10#8) := by
  decide

/-- Words of the opcode table (R108): a register, a command, a packet with P[0] on top. -/
theorem test_decode_table_words :
    decodeTableWord 32 0x005F7080 = some (.rData 1) ∧
    decodeTableWord 8 0xA1 = some .identify ∧
    decodeTableWord 96 0x302000009600000000000200 = some (.read 2#4 0#3 0#1 150#24 2#24) ∧
    decodeTableWord 8 0xEC = none ∧ decodeTableWord 32 0x005F7000 = none := by decide

/-- `withFetchWord` makes the next step run the word's instruction: an IDENTIFY, a START_DISK. -/
theorem test_with_fetch_word :
    ok (step (s0.withFetchWord 8 0xA1)) (fun t => (queueData t.q).length == 80) = true ∧
    ok (step (s0.withFetchWord 96 0x700000000000000000000000))
      (fun t => t.status == 0x40#8 && t.intreason == 3#8 && t.pstate == .normal) = true ∧
    ok (step (s0.withFetchWord 32 0x005F709C)) (fun t => t.readData == [0#8]) = true := by decide

/-! ## Registers (section 2.1 of the vectors) -/

/-- V-REG-2, V-REG-3. -/
theorem test_status_reads :
    ok (exec (.rAltstatDevctrl 2) { s0 with status := 0x48#8, irq := true })
      (fun t => t.readData == [0x48#8, 0#8] && t.irq) = true ∧
    ok (exec (.rStatusCommand 1) { s0 with status := 0x48#8, irq := true })
      (fun t => t.readData == [0x48#8] && !t.irq && t.status == 0x48#8) = true := by decide

/-- V-REG-4: the write goes to FEATURES, the read comes from ERROR. -/
theorem test_error_features :
    ok (exec (.wErrorFeatures [1#8, 0xFF#8, 0xFF#8, 0xFF#8]) s0)
      (fun t => t.features == 1#8 && t.error == 0#8) = true ∧
    ok (exec (.rErrorFeatures 4) { sErr with features := 1#8 })
      (fun t => t.readData == [0x20#8, 0#8, 0#8, 0#8]) = true := by decide

/-- V-REG-9: the write goes to SECTCNT, the read comes from INTREASON. -/
theorem test_intreason_sectcnt :
    ok (exec (.wIntreasonSectcnt [0x22#8]) { s0 with intreason := 1#8 })
      (fun t => t.sectcnt == 0x22#8 && t.intreason == 1#8) = true ∧
    ok (exec (.rIntreasonSectcnt 4) { s0 with intreason := 1#8, sectcnt := 0x22#8 })
      (fun t => t.readData == [1#8, 0#8, 0#8, 0#8]) = true := by decide

/-- V-REG-6, V-REG-5. -/
theorem test_bytecnt_halves :
    ok (exec (.wBytecntLo [0xCD#8, 0xAB#8]) { s0 with bytecnt := 0x1234#16 })
      (fun t => t.bytecnt == 0x12CD#16) = true ∧
    ok (exec (.wBytecntHi [0x56#8]) { s0 with bytecnt := 0x1234#16 })
      (fun t => t.bytecnt == 0x5634#16) = true ∧
    ok (exec (.rBytecntLo 1) { s0 with bytecnt := 0x1234#16 })
      (fun t => t.readData == [0x34#8]) = true ∧
    ok (exec (.rBytecntHi 4) { s0 with bytecnt := 0x1234#16 })
      (fun t => t.readData == [0x12#8, 0#8, 0#8, 0#8]) = true := by decide

/-- V-REG-7, V-REG-8, V-REG-11: each write in its own register. -/
theorem test_storage_writes :
    ok (exec (.wSectnum [0x78#8, 0x56#8, 0x34#8, 0x12#8]) s0)
      (fun t => t.sectnum == 0x78#8 && t.drvsel == 0#8) = true ∧
    ok (exec (.wDrvsel [0xA0#8]) s0) (fun t => t.drvsel == 0xA0#8 && t.sectnum == 0#8) = true ∧
    ok (exec (.wAltstatDevctrl [4#8]) sErr)
      (fun t => t.devctrl == 4#8 && t.status == 0x41#8) = true := by decide

/-- V-REG-7, V-REG-8: each read from its own register. -/
theorem test_storage_reads :
    ok (exec (.rSectnum 4) { s0 with sectnum := 0x78#8 })
      (fun t => t.readData == [0x78#8, 0#8, 0#8, 0#8]) = true ∧
    ok (exec (.rDrvsel 1) { s0 with drvsel := 0xA0#8 }) (fun t => t.readData == [0xA0#8]) = true := by
  decide

/-! ## DMA registers (section 2.5) -/

/-- V-DMA-14, V-DMA-15, V-DMA-16. -/
theorem test_gdapro_write :
    ok (exec (.wGdapro [0x7F#8, 0x40#8, 0#8, 0#8]) s0) (fun t => t.gdapro == 0x7F00#32) = true ∧
    ok (exec (.wGdapro [0x7F#8, 0x40#8]) s0) (fun t => t.gdapro == 0x7F00#32) = true ∧
    ok (exec (.wGdapro [0xFF#8, 0xFF#8, 0x43#8, 0x88#8]) s0)
      (fun t => t.gdapro == 0x7F7F#32) = true := by decide

/-- The windows of section 2.5 and of V-DMA-2. -/
theorem test_window :
    protTop 0x407F#32 = 0x0C000000#32 ∧ protBot 0x407F#32 = 0x0FFFFFFF#32 ∧
    protTop 0x417F#32 = 0x0C100000#32 ∧ protBot 0x4040#32 = 0x0C0FFFFF#32 := by decide

/-- V-DMA-19 and its likes: a short write stores the zero-extended value in its own register. -/
theorem test_dma_writes :
    ok (exec (.wGdstar [0xEF#8, 0xBE#8]) { s0 with gdstar := 0xFFFFFFFF#32 })
      (fun t => t.gdstar == 0xBEEF#32 && t.gdlen == 0#32) = true ∧
    ok (exec (.wGdlen [0#8, 0x10#8, 0#8, 0#8]) s0)
      (fun t => t.gdlen == 0x1000#32 && t.gdlend == 0#32) = true ∧
    ok (exec (.wGddir [1#8]) s0) (fun t => t.gddir == 1#32 && t.gden == 0#32) = true ∧
    ok (exec (.wGden [1#8]) s0) (fun t => t.gden == 1#32 && t.gddir == 0#32) = true ∧
    ok (exec (.wGdlend [0#8]) { s0 with gdlend := 4096#32 }) (fun t => t.gdlend == 4096#32) = true := by
  decide

/-- V-DMA-17 and its likes; GDST reads 0 whatever it holds (R240). -/
theorem test_dma_reads :
    ok (exec (.rGdlend 4) { s0 with gdlend := 4096#32 })
      (fun t => t.readData == [0#8, 0x10#8, 0#8, 0#8]) = true ∧
    ok (exec (.rGdapro 2) s0) (fun t => t.readData == [0#8, 0x7F#8]) = true ∧
    ok (exec (.rGdstar 4) sDma) (fun t => t.readData == [0xFE#8, 0xFF#8, 0x0F#8, 0x0C#8]) = true ∧
    ok (exec (.rGdlen 1) sDma) (fun t => t.readData == [3#8]) = true ∧
    ok (exec (.rGddir 1) { sDma with gden := 2#32 }) (fun t => t.readData == [1#8]) = true ∧
    ok (exec (.rGden 1) { sDma with gddir := 2#32 }) (fun t => t.readData == [1#8]) = true ∧
    ok (exec (.rGdst 2) { s0 with gdst := 5#32 }) (fun t => t.readData == [0#8, 0#8]) = true := by
  decide

/-- V-DMA-3 and V-DMA-7 in small: two bytes inside the window, the third beyond its end, one left. -/
theorem test_drain :
    ok (exec (.wGdst [0#8, 1#8]) sDma) (fun t =>
      t.gmem == [(0x0C0FFFFE, 1#8), (0x0C0FFFFF, 2#8)] && t.gdlend == 3#32 &&
      queueData t.q == [4#8] && t.status == 0x40#8 && t.irq && t.gdst == 0#32) = true := by decide

/-- V-DMA-10 to V-DMA-12. -/
theorem test_trigger_without_drain :
    ok (exec (.wGdst [1#8]) { sDma with gden := 0#32 })
      (fun t => t.gdlend == 0#32 && t.status == 8#8 && !t.irq && t.gdst == 0#32) = true ∧
    ok (exec (.wGdst [0#8]) sDma) (fun t => t.gdlend == 0#32 && t.status == 8#8) = true ∧
    faults (exec (.wGdst [1#8]) { sDma with gddir := 0#32 })
      (.unimplementedFeature .dmaDirection) = true := by decide

/-! ## ATA commands (section 2.2) -/

/-- V-ATA-1 to V-ATA-3. -/
theorem test_no_effect :
    ok (exec .nop sErr) (fun t => t.status == 0x41#8 && t.intreason == 3#8) = true ∧
    ok (exec .reset { s0 with pstate := .awaitingPacket, pcnt := 4 })
      (fun t => t.pstate == .awaitingPacket && t.pcnt == 4) = true ∧
    ok (exec .diagnostic sErr) (fun t => t.status == 0x41#8 && t.error == 0x20#8) = true := by decide

/-- V-ATA-5, V-ATA-6. -/
theorem test_packet :
    ok (exec .packet sErr) (fun t => t.status == 0x48#8 && t.error == 0x20#8 && t.asc == 0x3A#8 &&
      t.intreason == 1#8 && t.pstate == .awaitingPacket) = true ∧
    ok (exec .packet { s0 with pstate := .awaitingPacket, pcnt := 6 })
      (fun t => t.pcnt == 0 && t.pstate == .awaitingPacket) = true := by decide

/-- V-ATA-8, V-ATA-9, V-REG-10. -/
theorem test_identify :
    ok (exec .identify { sQ4 with pstate := .awaitingModeData }) (fun t =>
      queueData t.q == cfg0.identBlock && t.q.length == 1 && t.status == 8#8 && t.irq &&
      t.pstate == .normal) = true ∧
    ok (exec .identify { s0 with devctrl := 2#8 }) (fun t => !t.irq && t.status == 8#8) = true := by
  decide

/-- V-ATA-11 to V-ATA-15: each pattern its entry. -/
theorem test_set_features_entries :
    ok (exec .setFeatures { s0 with features := 3#8, sectcnt := 1#8 })
      (fun t => t.tmode == ⟨1#8, 0#8, 0#8, 0#8, 0#8⟩) = true ∧
    ok (exec .setFeatures { s0 with features := 3#8, sectcnt := 0x0B#8 })
      (fun t => t.tmode == ⟨0#8, 3#8, 0#8, 0#8, 0#8⟩) = true ∧
    ok (exec .setFeatures { s0 with features := 3#8, sectcnt := 0x12#8 })
      (fun t => t.tmode == ⟨0#8, 0#8, 2#8, 0#8, 0#8⟩) = true ∧
    ok (exec .setFeatures { s0 with features := 0x83#8, sectcnt := 0x22#8 })
      (fun t => t.tmode == ⟨0#8, 0#8, 0#8, 2#8, 0#8⟩) = true ∧
    ok (exec .setFeatures { s0 with features := 3#8, sectcnt := 0x1A#8 })
      (fun t => t.tmode == ⟨0#8, 0#8, 0#8, 0#8, 2#8⟩) = true := by decide

/-- V-ATA-16, V-ATA-18. -/
theorem test_set_features_nothing :
    ok (exec .setFeatures { s0 with features := 3#8, sectcnt := 0x28#8 })
      (fun t => t.tmode == ⟨0#8, 0#8, 0#8, 0#8, 0#8⟩) = true ∧
    ok (exec .setFeatures { s0 with features := 2#8, sectcnt := 0x22#8 })
      (fun t => t.tmode == ⟨0#8, 0#8, 0#8, 0#8, 0#8⟩) = true := by decide

/-- V-ATA-20, V-ATA-22: the low byte is the command. -/
theorem test_command_write :
    ok (exec (.wStatusCommand [0xA0#8, 0x56#8, 0x34#8, 0x12#8]) s0)
      (fun t => t.pstate == .awaitingPacket) = true ∧
    faults (exec (.wStatusCommand [0xEC#8]) s0) (.unimplementedCommand 0xEC#8) = true := by decide

/-! ## Packets (section 2.3) -/

/-- V-PKT-2, V-PKT-3, V-PKT-4. -/
theorem test_packet_bytes :
    ok (exec (.wData [0x96#8, 0#8, 0xBB#8, 0xAA#8])
      { s0 with pstate := .awaitingPacket, pcnt := 4, pkt := pk 1#8 2#8 3#8 4#8 5#8 6#8 })
      (fun t => t.pkt == pk 1#8 2#8 3#8 4#8 0x96#8 6#8 && t.pcnt == 6) = true ∧
    ok (exec (.wData [0x11#8]) { s0 with pstate := .awaitingPacket, pkt := pk 1#8 2#8 3#8 4#8 5#8 6#8 })
      (fun t => t.pkt == pk 0x11#8 0#8 3#8 4#8 5#8 6#8 && t.pcnt == 2) = true ∧
    ok (exec (.wData [0x34#8, 0x12#8]) s0) (fun t => t.pcnt == 0 && t.pkt[0] == 0#8) = true := by decide

/-- V-PKT-5 and E3 (V-PKT-6), as the step of the last data write. -/
theorem test_test_unit_ready :
    ok (exec .testUnitReady sErr) (fun t => t.status == 0x40#8 && t.error == 0#8 && t.asc == 0#8 &&
      t.intreason == 3#8 && !t.irq && t.pstate == .normal) = true ∧
    ok (step { sLast (pk 0#8 0#8 0#8 0#8 0#8 0#8) with
        cfg := { cfg0 with mount := { cfg0.mount with present := false } } })
      (fun t => t.status == 0x41#8 && t.error == 0x20#8 && t.asc == 0x3A#8 && t.intreason == 3#8 &&
        !t.irq && t.pstate == .normal && t.pcnt == 12) = true := by decide

/-- V-PKT-8 as a step, V-PKT-9, V-PKT-10. -/
theorem test_req_mode :
    ok (step (sLast (pk 0x11#8 0#8 0x1E#8 0#8 4#8 0#8))) (fun t =>
      t.q == [⟨0, [0x5E#8, 0x5F#8]⟩] && t.bytecnt == 2#16 && t.status == 8#8 && t.intreason == 2#8 &&
      t.irq && t.pstate == .normal) = true ∧
    ok (exec (.reqMode 40#8 1#8) s0) (fun t => t.q == [⟨0, [0x5F#8]⟩] && t.bytecnt == 1#16) = true ∧
    ok (exec (.reqMode 5#8 0#8) { sQ4 with bytecnt := 0x1234#16 })
      (fun t => t.q == [] && t.bytecnt == 0x1234#16 && t.drq && t.irq) = true := by decide

/-- V-PKT-12, V-PKT-13. -/
theorem test_set_mode :
    ok (step { sLast (pk 0x12#8 0#8 0#8 0#8 0#8 0#8) with bytecnt := 10#16 }) (fun t =>
      t.pcnt == 10 && t.pstate == .awaitingModeData && t.drq && t.intreason == 2#8 && !t.irq) = true ∧
    faults (exec .setMode { s0 with features := 1#8 }) (.unimplementedFeature .setModeDma) = true := by
  decide

/-- V-PKT-36, V-PKT-37, and the latter with 4 bytes: the subtraction of R178 at PCNT = 0 leaves -4, where
R23 derives -3 as the least value (notes/assumptions/18.md). -/
theorem test_mode_data :
    ok (exec (.wData [0#8, 0#8, 0#8, 0#8])
      { s0 with pstate := .awaitingModeData, pcnt := 1, status := 8#8 })
      (fun t => t.pcnt == -3 && t.status == 0#8 && t.irq && t.pstate == .normal) = true ∧
    ok (exec (.wData [0#8]) { s0 with pstate := .awaitingModeData, pcnt := 0 })
      (fun t => t.pcnt == -1 && t.irq && t.pstate == .normal) = true ∧
    ok (exec (.wData [0#8, 0#8, 0#8, 0#8]) { s0 with pstate := .awaitingModeData, pcnt := 0 })
      (fun t => t.pcnt == -4 && t.pstate == .normal) = true ∧
    ok (exec (.wData [0#8, 0#8]) { s0 with pstate := .awaitingModeData, pcnt := 4, status := 8#8 })
      (fun t => t.pcnt == 2 && t.status == 8#8 && t.pstate == .awaitingModeData) = true := by decide

/-- V-PKT-22 as a step, V-PKT-23. -/
theorem test_req_error :
    ok (step { sLast (pk 0x13#8 0#8 0#8 0#8 10#8 0#8) with error := 0x20#8, asc := 0x3A#8 }) (fun t =>
      t.q == [⟨0, [0xF0#8, 0#8, 2#8, 0#8, 0#8, 0#8, 0#8, 0#8, 0x3A#8, 0#8]⟩] && t.error == 0x20#8 &&
      t.intreason == 2#8 && t.irq) = true ∧
    ok (exec (.reqError 4#8) sErr)
      (fun t => t.q == [⟨0, [0xF0#8, 0#8, 2#8, 0#8]⟩] && t.status == 0x49#8) = true := by decide

/-- V-PKT-28, V-PKT-29. -/
theorem test_read_toc :
    ok (exec (.readToc 1#1 4#16) s0) (fun t => t.q == [⟨0, [10#8, 11#8, 12#8, 13#8]⟩] && t.irq) = true ∧
    ok (exec (.readToc 0#1 65535#16) s0)
      (fun t => t.q == [⟨0, [0#8, 1#8, 2#8, 3#8, 4#8, 5#8]⟩]) = true := by decide

/-- V-PKT-14 as a step, V-PKT-16. -/
theorem test_read :
    ok (step (sLast (pk 0x30#8 0x20#8 0#8 0#8 0x96#8 5#8))) (fun t =>
      t.q == [⟨0, sector 0xA0#8⟩, ⟨0, sector 0xA1#8⟩] && t.error == 0x50#8 && t.status == 9#8 &&
      t.intreason == 1#8 && !t.irq && t.pstate == .normal) = true ∧
    ok (exec (.read 2#4 7#3 0#1 150#24 2#24) { s0 with features := 1#8 }) (fun t =>
      t.q == [⟨0, sector 0xA0#8⟩, ⟨0, sector 0xA1#8⟩] && t.status == 0#8 && !t.irq) = true := by decide

/-- V-PKT-19, V-PKT-18, V-EXC-5. -/
theorem test_read_faults :
    faults (exec (.read 1#4 0#3 1#1 150#24 2#24) s0) (.unimplementedFeature .readSelection) = true ∧
    faults (exec (.read 2#4 0#3 1#1 150#24 2#24) s0) (.unimplementedFeature .readAddressing) = true ∧
    faults (exec (.read 2#4 0#3 0#1 150#24 2#24)
      { s0 with cfg := { cfg0 with queueMaxNodes := some 1 } }) .allocationFailure = true := by decide

/-- V-PKT-30, V-EXC-6. -/
theorem test_start_disk :
    ok (exec .startDisk sErr) (fun t => t.status == 0x40#8 && t.error == 0#8 && t.asc == 0#8 &&
      t.intreason == 3#8 && !t.irq) = true ∧
    ok (exec .startDisk { s0 with cfg := { cfg0 with nodataPktIrq := true } }) (fun t => t.irq) = true := by
  decide

/-- V-PKT-31, V-PKT-33. -/
theorem test_vendor71 :
    ok (exec .vendor71 sQ4) (fun t => t.q == [⟨0, [0x71#8, 0x72#8, 0x73#8]⟩] && t.bytecnt == 3#16 &&
      t.intreason == 2#8 && t.irq) = true ∧
    faults (step (sLast (pk 0x10#8 0#8 0#8 0#8 0#8 0#8))) (.unimplementedPacket 0x10#8) = true := by decide

/-! ## Data reads (section 2.4) -/

/-- V-PIO-4, V-PIO-2: across nodes, and with zeros. -/
theorem test_data_read_across :
    ok (exec (.rData 4) sQ4) (fun t => t.readData == [1#8, 2#8, 3#8, 4#8] && t.q == [] &&
      t.status == 0x40#8 && t.irq) = true ∧
    ok (exec (.rData 4) { sQ4 with q := [⟨1, [0#8, 9#8]⟩], devctrl := 2#8 })
      (fun t => t.readData == [9#8, 0#8, 0#8, 0#8] && t.status == 0x40#8 && !t.irq) = true := by decide

/-- V-PIO-5, V-PIO-3. -/
theorem test_data_read_partial :
    ok (exec (.rData 2) sQ4) (fun t => t.readData == [1#8, 2#8] &&
      t.q == [⟨1, [2#8, 3#8, 4#8]⟩] && t.status == 8#8 && !t.irq) = true ∧
    ok (exec (.rData 4) { s0 with status := 8#8 })
      (fun t => t.readData == [0#8, 0#8, 0#8, 0#8] && t.status == 8#8 && !t.irq) = true := by decide

/-! ## The dispatcher (E1, E2) -/

/-- E1: three addresses without a descriptor. -/
theorem test_unmapped :
    faults (step { s0 with pending := [.read 0x005F7000#32 4] })
      (.unimplementedAccess .noDescriptor 0x005F7000#32) = true ∧
    faults (step { s0 with pending := [.read 0x005F7081#32 1] })
      (.unimplementedAccess .noDescriptor 0x005F7081#32) = true ∧
    faults (step { s0 with pending := [.write 0x005F70A0#32 [0#8]] })
      (.unimplementedAccess .noDescriptor 0x005F70A0#32) = true := by decide

/-- E2: REG_LEN = 2, a 4-byte read of DATA. -/
theorem test_oversized :
    faults (step { sQ4 with cfg := { cfg0 with regLen := 2 }, pending := [.read 0x005F7080#32 4] })
      (.unimplementedAccess .tooLong 0x005F7080#32) = true ∧
    ok (step { sQ4 with cfg := { cfg0 with regLen := 2 }, pending := [.read 0x005F7080#32 2] })
      (fun t => t.readData == [1#8, 2#8] && t.pending == []) = true := by decide

/-- What is refused: a length that is none (R95), a command outside NORMAL under `refuse` (D16). -/
theorem test_refused :
    refuses (step { s0 with pending := [.read 0x005F7080#32 3] }) .notATransaction = true ∧
    refuses (step { sLast (pk 0#8 0#8 0#8 0#8 0#8 0#8) with
      cfg := { cfg0 with cmdInNonNormal := .refuse }
      pending := [.write 0x005F709C#32 [0xA1#8]] }) .commandInNonNormal = true := by decide

/-! ## Witnesses: states and operands that meet the hypotheses of each obligation -/

theorem cfg0_wf : cfg0.Wf where
  addrDistinct := by decide
  addrAligned := by intro r; cases r <;> decide
  lengths := by decide
  ataDistinct := by decide
  pktDistinct := by decide
  ident := by decide
  mode := by decide
  pkt71 := by decide
  nodeCap := by decide
  sector := by decide
  toc := by decide
  gdaproReset := by decide
  senseNone := by decide
  mount := ⟨by decide, by decide, by decide⟩

/-- `cfg0` with a bounded queue. -/
def cfgMax (m : Nat) : Config := { cfg0 with queueMaxNodes := some m }

theorem cfgMax_wf (m : Nat) : (cfgMax m).Wf :=
  ⟨cfg0_wf.addrDistinct, cfg0_wf.addrAligned, cfg0_wf.lengths, cfg0_wf.ataDistinct,
    cfg0_wf.pktDistinct, cfg0_wf.ident, cfg0_wf.mode, cfg0_wf.pkt71, cfg0_wf.nodeCap, cfg0_wf.sector,
    cfg0_wf.toc, cfg0_wf.gdaproReset, cfg0_wf.senseNone, cfg0_wf.mount⟩

/-- `cfg0` where a command outside NORMAL is refused. -/
def cfgRefuse : Config := { cfg0 with cmdInNonNormal := .refuse }

/-- `cfg0` with declared lengths of 2. -/
def cfgShort : Config := { cfg0 with regLen := 2 }

theorem cfgShort_wf : cfgShort.Wf :=
  ⟨cfg0_wf.addrDistinct, cfg0_wf.addrAligned, cfg0_wf.lengths, cfg0_wf.ataDistinct,
    cfg0_wf.pktDistinct, cfg0_wf.ident, cfg0_wf.mode, cfg0_wf.pkt71, cfg0_wf.nodeCap, cfg0_wf.sector,
    cfg0_wf.toc, cfg0_wf.gdaproReset, cfg0_wf.senseNone, cfg0_wf.mount⟩

theorem s0_open : s0.CommandOpen := .inl rfl

/-- The two sectors of the test disc can be read, the third cannot. -/
theorem sectors_readable (j : Nat) (b : List Byte)
    (h : [sector 0xA0#8, sector 0xA1#8][j]? = some b) :
    mountReadSector cfg0.mount (150 + j) = some b := by
  match j with
  | 0 => exact h
  | 1 => exact h
  | j + 2 => simp at h

theorem sector_unreadable : mountReadSector cfg0.mount (150 + 2) = none := by decide

theorem witness_DecodeOfEncode :
    cfg0.Wf ∧ (Instr.wGdapro [1#8, 2#8, 3#8, 4#8]).wf cfg0 = true ∧
      (Instr.read 15#4 7#3 1#1 0xFFFFFF#24 0xFFFFFF#24).wf cfg0 = true :=
  ⟨cfg0_wf, by decide, by decide⟩

theorem witness_EncodeOfDecode :
    cfg0.Wf ∧ decodeAccess cfg0 (.write 0x005F74F8#32 [1#8, 2#8]) = .ok (.wGdlend [1#8, 2#8]) ∧
      decodeCommand cfg0 0xEF#8 = .ok .setFeatures := ⟨cfg0_wf, by decide, by decide⟩

theorem witness_IgnoredPacketBits :
    let p := pk 0x30#8 0x20#8 0#8 0#8 0x96#8 2#8
    let p' : Packet := #v[0x30#8, 0x20#8, 0#8, 0#8, 0x96#8, 1#8, 2#8, 3#8, 0#8, 0#8, 2#8, 4#8]
    p'[0] = p[0] ∧ (p[0] = cfg0.pktReqMode → p'[2] = p[2] ∧ p'[4] = p[4]) ∧
    (p[0] = cfg0.pktReqError → p'[4] = p[4]) ∧
    (p[0] = cfg0.pktReadToc → p'[1].getLsbD 0 = p[1].getLsbD 0 ∧ p'[3] = p[3] ∧ p'[4] = p[4]) ∧
    (p[0] = cfg0.pktRead → p'[1] = p[1] ∧ p'[2] = p[2] ∧ p'[3] = p[3] ∧ p'[4] = p[4] ∧
      p'[8] = p[8] ∧ p'[9] = p[9] ∧ p'[10] = p[10]) := by decide

theorem witness_StepRunsDecodedAccess :
    let s := { s0 with pending := [.read 0x005F7080#32 4] }
    s.cfg.Wf ∧ s.pending = [.read 0x005F7080#32 4] ∧
    AccessTo s.cfg (.read 0x005F7080#32 4) .data ∧
    decodeAccess s.cfg (.read 0x005F7080#32 4) = .ok (.rData 4) ∧ s0.pending = [] :=
  ⟨cfg0_wf, rfl, ⟨by decide, by decide⟩, by decide, rfl⟩

/-- The address without a register, and one with; the host stops at a fault. -/
theorem witness_LookupByExactAddress :
    { s0 with pending := [.read 0x005F7000#32 4] }.pending = [.read 0x005F7000#32 4] ∧
      (Access.read 0x005F7000#32 4).len ∈ cfg0.accessLengths ∧
      (∀ r : Reg, cfg0.addrOf r ≠ 0x005F7000#32) ∧
      cfg0.Wf ∧ cfg0.addrOf .gdlend = (Access.read 0x005F74F8#32 4).addr ∧ 4 ≤ cfg0.regLen ∧
      cfg0.hostFaultPolicy = .halt := by
  refine ⟨rfl, by decide, fun r => ?_, cfg0_wf, by decide, by decide, rfl⟩
  cases r <;> decide

theorem witness_OversizedAccessFaults :
    let s := { s0 with cfg := cfgShort, pending := [.read 0x005F7080#32 4] }
    s.cfg.Wf ∧ s.pending = [.read 0x005F7080#32 4] ∧ 4 ∈ s.cfg.accessLengths ∧
      2 ∈ s.cfg.accessLengths ∧ s.cfg.regLen < 4 ∧ 2 ≤ s.cfg.regLen ∧
      (Access.read 0x005F7080#32 4).addr = s.cfg.addrOf .data ∧ s.cfg.hostFaultPolicy = .halt :=
  ⟨cfgShort_wf, rfl, by decide, by decide, by decide, by decide, by decide, rfl⟩

/-- A step that faults in each way but AllocationFailure, which `test_read_faults` shows. -/
theorem witness_FaultCauses :
    s0.cfg.Wf ∧
    faults (step { s0 with pending := [.read 0x005F7000#32 4] })
      (.unimplementedAccess .noDescriptor 0x005F7000#32) = true ∧
    faults (step { s0 with pending := [.write 0x005F709C#32 [0x20#8]] })
      (.unimplementedCommand 0x20#8) = true ∧
    faults (step (sLast (pk 0x10#8 0#8 0#8 0#8 0#8 0#8))) (.unimplementedPacket 0x10#8) = true ∧
    faults (step { sLast (pk 0x12#8 0#8 0#8 0#8 0#8 0#8) with features := 1#8 })
      (.unimplementedFeature .setModeDma) = true ∧
    faults (step { sDma with gddir := 0#32, pending := [.write 0x005F7418#32 [1#8]] })
      (.unimplementedFeature .dmaDirection) = true :=
  ⟨cfg0_wf, by decide, by decide, by decide, by decide, by decide⟩

theorem witness_RefusalCauses :
    refuses (step { s0 with pending := [.write 0x005F7080#32 []] }) .notATransaction = true ∧
    refuses (step { s0 with cfg := cfgRefuse, pstate := .awaitingModeData,
                            pending := [.write 0x005F709C#32 [0xA0#8]] })
      .commandInNonNormal = true := by decide

theorem witness_CommandWriteRunsCommand :
    s0.cfg.Wf ∧ s0.CommandOpen ∧ (s0.cfg.ataCode .identify).toNat = leValue [0xA1#8, 0xFF#8] % 256 ∧
      s0.cfg.queueMaxNodes ≠ some 0 := ⟨cfg0_wf, s0_open, by decide, by decide⟩

theorem witness_UnknownCommandFaults :
    s0.CommandOpen ∧ (0xEC#8).toNat = leValue [0xEC#8] % 256 ∧
      ∀ op : AtaOp, s0.cfg.ataCode op ≠ 0xEC#8 := by
  refine ⟨s0_open, by decide, fun op => ?_⟩
  cases op <;> decide

theorem witness_LastDataWriteRunsPacket :
    let p := pk 0x71#8 0#8 0#8 0#8 0#8 5#8
    (sLast p).cfg.Wf ∧ CompletesPacket (sLast p) [5#8, 0#8] p ∧ (sLast p).cfg.pktCode .vendor71 = p[0] :=
  ⟨cfg0_wf, ⟨rfl, rfl, by decide⟩, rfl⟩

/-- The other clause: an opcode that is none. -/
theorem witness_LastDataWriteRunsPacket_unknown :
    let p := pk 0x10#8 0#8 0#8 0#8 0#8 5#8
    (sLast p).cfg.Wf ∧ CompletesPacket (sLast p) [5#8] p ∧ ∀ op : PktOp, (sLast p).cfg.pktCode op ≠ p[0] := by
  refine ⟨cfg0_wf, ⟨rfl, rfl, by decide⟩, fun op => ?_⟩
  cases op <;> decide

theorem witness_SendPacketRunsPacket :
    let s := { s0 with pending := [.write 0x005F709C#32 [0xA0#8, 0#8, 0#8, 0#8],
      .write 0x005F7080#32 [0x11#8, 0#8], .write 0x005F7080#32 [0x1E#8, 0#8],
      .write 0x005F7080#32 [4#8, 0#8], .write 0x005F7080#32 [0#8, 0#8],
      .write 0x005F7080#32 [0#8, 0#8], .write 0x005F7080#32 [0#8, 0#8]] }
    let p := pk 0x11#8 0#8 0x1E#8 0#8 4#8 0#8
    s.cfg.Wf ∧ s.CommandOpen ∧ s.cfg.lenOk [0xA0#8, 0#8, 0#8, 0#8].length = true ∧
      s.cfg.lenOk 2 = true ∧ leValue [0xA0#8, 0#8, 0#8, 0#8] % 256 = s.cfg.cmdPacket.toNat ∧
      s.cfg.pktCode .reqMode = p[0] ∧
      s.pending = .write (s.cfg.addrOf .statusCommand) [0xA0#8, 0#8, 0#8, 0#8] ::
        .write (s.cfg.addrOf .data) [p[0], p[1]] :: .write (s.cfg.addrOf .data) [p[2], p[3]] ::
        .write (s.cfg.addrOf .data) [p[4], p[5]] :: .write (s.cfg.addrOf .data) [p[6], p[7]] ::
        .write (s.cfg.addrOf .data) [p[8], p[9]] :: .write (s.cfg.addrOf .data) [p[10], p[11]] :: [] :=
  ⟨cfg0_wf, .inl rfl, by decide, by decide, by decide, by decide, by decide⟩

theorem witness_ProtectWriteNeedsCode :
    leValue [0x7F#8, 0x40#8, 0x43#8, 0x88#8] / 65536 % 65536 = s0.cfg.gdaproCode.toNat ∧
      leValue [0x7F#8, 0x40#8] / 65536 % 65536 ≠ s0.cfg.gdaproCode.toNat := by decide

theorem witness_NoEffectCommands : s0.CommandOpen := s0_open
theorem witness_PacketCommandEffect : s0.CommandOpen := s0_open
theorem witness_SetFeaturesEffect :
    { s0 with features := 3#8, sectcnt := 39#8 }.CommandOpen := .inl rfl

theorem witness_IdentifyEffect :
    s0.cfg.Wf ∧ s0.CommandOpen ∧ s0.cfg.queueMaxNodes ≠ some 0 := ⟨cfg0_wf, s0_open, by decide⟩

theorem witness_CommandRefusedOutsideNormal :
    ¬ { s0 with cfg := cfgRefuse, pstate := .awaitingPacket }.CommandOpen := by
  simp [State.CommandOpen, cfgRefuse]

theorem witness_DataWriteAccumulates :
    let s := { s0 with pstate := .awaitingPacket, pcnt := 8 }
    s0.pstate = .normal ∧ s.pstate = .awaitingPacket ∧ s.pcnt = ((8 : Nat) : Int) ∧ 8 % 2 = 0 :=
  ⟨rfl, rfl, rfl, rfl⟩

/-- Both clauses where they meet: one byte left, and none. -/
theorem witness_ModeDataInput :
    let s : State := { s0 with pstate := .awaitingModeData, pcnt := 3 }
    let s' : State := { s0 with pstate := .awaitingModeData, pcnt := 2 }
    s.pstate = .awaitingModeData ∧ 0 < s.pcnt - ([0#8, 0#8] : List Byte).length ∧
      s'.pstate = .awaitingModeData ∧ s'.pcnt - ([0#8, 0#8] : List Byte).length ≤ 0 := by decide

theorem witness_ReqModeEffect :
    s0.cfg.Wf ∧ (0#8).toNat = 0 ∧ (255#8).toNat ≠ 0 ∧ s0.cfg.queueMaxNodes ≠ some 0 :=
  ⟨cfg0_wf, by decide, by decide, by decide⟩

theorem witness_SetModeEffect :
    { s0 with features := 1#8 }.featDma = true ∧ s0.featDma = false := by decide

theorem witness_ReqErrorEffect :
    (0#8).toNat = 0 ∧ (255#8).toNat ≠ 0 ∧ s0.cfg.queueMaxNodes ≠ some 0 := by decide

theorem witness_ReadTocEffect :
    s0.cfg.Wf ∧ min (0#16).toNat s0.cfg.tocMax = 0 ∧ min (65535#16).toNat s0.cfg.tocMax ≠ 0 ∧
      s0.cfg.queueMaxNodes ≠ some 0 := ⟨cfg0_wf, by decide, by decide, by decide⟩

theorem witness_ReadAllSectors :
    [sector 0xA0#8, sector 0xA1#8].length = (2#24).toNat ∧
    (∀ j b, [sector 0xA0#8, sector 0xA1#8][j]? = some b →
      mountReadSector s0.cfg.mount ((150#24).toNat + j) = some b) ∧
    (∀ m, (cfgMax 2).queueMaxNodes = some m → (2#24).toNat ≤ m) :=
  ⟨by decide, sectors_readable, by intro m h; cases h; decide⟩

theorem witness_ReadSectorFailure :
    [sector 0xA0#8, sector 0xA1#8].length < (5#24).toNat ∧
    (∀ j b, [sector 0xA0#8, sector 0xA1#8][j]? = some b →
      mountReadSector s0.cfg.mount ((150#24).toNat + j) = some b) ∧
    mountReadSector s0.cfg.mount ((150#24).toNat + [sector 0xA0#8, sector 0xA1#8].length) = none ∧
    (∀ m, s0.cfg.queueMaxNodes = some m → [sector 0xA0#8, sector 0xA1#8].length ≤ m) :=
  ⟨by decide, sectors_readable, by decide, by intro m h; cases h⟩

theorem witness_ReadUnsupportedFaults :
    (1#4).toNat ≠ 2 ∧ (2#4).toNat = 2 ∧ (1#1).toNat ≠ 0 := by decide

theorem witness_Vendor71Effect : s0.cfg.Wf ∧ s0.cfg.queueMaxNodes ≠ some 0 := ⟨cfg0_wf, by decide⟩

theorem witness_AllocationFailureAtBound :
    (cfgMax 1).Wf ∧ (cfgMax 1).queueMaxNodes = some 1 ∧
    [sector 0xA0#8, sector 0xA1#8].length = 1 + 1 ∧ 1 < (2#24).toNat ∧
    (∀ j b, [sector 0xA0#8, sector 0xA1#8][j]? = some b →
      mountReadSector (cfgMax 1).mount ((150#24).toNat + j) = some b) ∧
    (cfgMax 0).Wf ∧ (cfgMax 0).queueMaxNodes = some 0 ∧
    { s0 with cfg := cfgMax 0 }.CommandOpen ∧ (1#8).toNat ≠ 0 ∧
    min (1#16).toNat (cfgMax 0).tocMax ≠ 0 :=
  ⟨cfgMax_wf 1, rfl, rfl, by decide, sectors_readable, cfgMax_wf 0, rfl, .inl rfl, by decide,
    by decide⟩

/-- A queue of two nodes whose front one has been read in part. -/
theorem q4_wf : QueueWf cfg0.nodeCap sQ4.q ∧
    QueueWf cfg0.nodeCap [⟨1, [0#8, 1#8, 2#8]⟩, ⟨0, [3#8, 4#8]⟩] := by
  simp only [QueueWf]; decide

theorem witness_DataReadDrainsQueue : QueueWf sQ4.cfg.nodeCap sQ4.q := q4_wf.1
theorem witness_EmptyQueueRead : s0.q = [] := rfl
theorem witness_MixedWidthReads : QueueWf sQ4.cfg.nodeCap sQ4.q := q4_wf.1

theorem witness_DrainWritesWindow :
    QueueWf sDma.cfg.nodeCap sDma.q ∧ sDma.gmem.wf ∧ leValue [0#8, 1#8] % 2 ^ 32 ≠ 0 ∧
      sDma.dmaEnabled = true ∧ sDma.dmaToMemory = true :=
  ⟨q4_wf.1, by decide, by decide, by decide, by decide⟩

theorem witness_DrainCompletes :
    leValue [0#8, 1#8] % 2 ^ 32 ≠ 0 ∧ sDma.dmaEnabled = true ∧ sDma.dmaToMemory = true := by decide

theorem witness_TriggerWithoutDrain :
    leValue [0#8, 0#8] % 2 ^ 32 = 0 ∧ leValue [1#8] % 2 ^ 32 ≠ 0 ∧ s0.dmaEnabled = false ∧
      { sDma with gddir := 2#32 }.dmaEnabled = true ∧
      { sDma with gddir := 2#32 }.dmaToMemory = false := by decide

/-- The invariant of a state with data queued. -/
theorem sQ4_inv (a : List Access) (b : Bool) : { sQ4 with pending := a, irq := b }.Inv where
  cfg := cfg0_wf
  status := by show 0x08#8 &&& 0xB6#8 = 0#8; decide
  error := by show (0#8).getLsbD 3 = false ∧ (0#8).getLsbD 2 = false ∧ (0#8).getLsbD 1 = false ∧
    (0#8).getLsbD 0 = false; decide
  intreason := by show 0#8 &&& 0xFC#8 = 0#8; decide
  gdst := rfl
  gdapro := by show 0x7F00#32 &&& 0x7F7F#32 = 0x7F00#32; decide
  queue := q4_wf.1
  queueMax := by intro m h; cases h
  packet := by intro h; cases h
  modeData := by intro h; cases h
  gmem := by simp [Memory.wf, sQ4, s0, State.resetOf]
  dmaEnd := by intro _; rfl

theorem witness_InterruptRisesOnlyAtListedEvents :
    { sQ4 with pending := [.read 0x005F7080#32 4], irq := false }.Inv ∧
      ok (step { sQ4 with pending := [.read 0x005F7080#32 4], irq := false }) (fun t => t.irq) = true :=
  ⟨sQ4_inv _ _, by decide⟩

theorem witness_InterruptFallsOnlyAtStatusRead :
    ok (step { s0 with irq := true, pending := [.read 0x005F709C#32 1] }) (fun t => !t.irq) = true := by
  decide

theorem witness_WindowChangesOnlyWithCode :
    ok (step { s0 with pending := [.write 0x005F74B8#32 [0x7F#8, 0x40#8, 0x43#8, 0x88#8]] })
      (fun t => t.gdapro != s0.gdapro) = true := by decide

theorem witness_MemoryOutsideWindowKept :
    sDma.gmem.wf ∧ ok (step { sDma with pending := [.write 0x005F7418#32 [1#8]] })
      (fun t => t.gmem != sDma.gmem) = true := ⟨by decide, by decide⟩

theorem witness_ProtocolTransitions :
    s0.cfg.Wf ∧ ok (step { s0 with pending := [.write 0x005F709C#32 [0xA0#8]] })
      (fun t => t.pstate == .awaitingPacket) = true := ⟨cfg0_wf, by decide⟩

theorem witness_OtherReadsAreIdempotent :
    s0.cfg.Wf ∧ 0x005F7018#32 ≠ s0.cfg.addrOf .data ∧ 0x005F7018#32 ≠ s0.cfg.addrOf .statusCommand ∧
      ok (step { s0 with pending := [.read 0x005F7018#32 4] })
        (fun t => t.readData == [0#8, 0#8, 0#8, 0#8]) = true :=
  ⟨cfg0_wf, by decide, by decide, by decide⟩

/-- A step that clears CHECK, and one that changes ERROR. -/
theorem witness_ErrorStateLife :
    ok (step { sErr with pending := [.write 0x005F709C#32 [0xA0#8]] })
      (fun t => sErr.check && !t.check) = true ∧
    ok (step { sLast (pk 0x70#8 0#8 0#8 0#8 0#8 0#8) with error := 0x20#8 })
      (fun t => t.error != 0x20#8) = true := by decide

theorem witness_ConfigurationFixed :
    ok (step { s0 with pending := [.read 0x005F7080#32 4] }) (fun t => t.pending == []) = true := by
  decide

theorem witness_NodeBoundariesUnobservable :
    sQ4.cfg.queueMaxNodes = none ∧ QueueWf sQ4.cfg.nodeCap sQ4.q ∧
      QueueWf sQ4.cfg.nodeCap [⟨1, [0#8, 1#8, 2#8]⟩, ⟨0, [3#8, 4#8]⟩] ∧
      queueData [⟨1, [0#8, 1#8, 2#8]⟩, ⟨0, [3#8, 4#8]⟩] = queueData sQ4.q :=
  ⟨rfl, q4_wf.1, q4_wf.2, by decide⟩

theorem witness_StepKeepsInvariant :
    { sQ4 with pending := [.read 0x005F7080#32 2], irq := true }.Inv ∧
      ok (step { sQ4 with pending := [.read 0x005F7080#32 2], irq := true })
        (fun t => t.q.length == 1) = true := ⟨sQ4_inv _ _, by decide⟩

/-- SET_MODE with BYTECNT 0, then a 4-byte write: the counter goes to -4. -/
theorem witness_CounterRange :
    let s := { s0 with pstate := .awaitingModeData, pcnt := 0,
                       pending := [.write 0x005F7080#32 [0#8, 0#8, 0#8, 0#8]] }
    s.Inv ∧ (∀ n ∈ s.cfg.accessLengths, n ≤ 4) ∧ -4 ≤ s.pcnt ∧ s.pcnt ≤ 65535 ∧
      ok (step s) (fun t => t.pcnt == -4) = true ∧
      ok (step { s with pcnt := 1 }) (fun t => t.pcnt == -3) = true := by
  refine ⟨⟨cfg0_wf, by decide, by decide, by decide, by decide, by decide, QueueWf.nil _, ?_, ?_, ?_,
    by simp [Memory.wf, s0, State.resetOf], fun _ => rfl⟩, by decide, by decide, by decide, by decide,
    by decide⟩
  · intro m h; cases h
  · intro h; cases h
  · intro _; decide

/-- Each clause, and the run that goes on: the read after an unmapped one is served. -/
theorem witness_AccessFaultUnderOtherPolicies :
    let c := { cfgShort with hostFaultPolicy := .log }
    let s := { s0 with cfg := c, pending := [.read 0x005F7000#32 2, .read 0x005F7080#32 2] }
    c.hostFaultPolicy ≠ .halt ∧ 2 ∈ c.accessLengths ∧ 4 ∈ c.accessLengths ∧ c.regLen < 4 ∧
      (∀ r : Reg, c.addrOf r ≠ 0x005F7000#32) ∧
      ok (step s) (fun t => ok (step t) (fun u => u.readData == [0#8, 0#8])) = true ∧
      ok (step { s with pending := [.write 0x005F7084#32 [1#8, 0#8, 0#8, 0#8]] })
        (fun t => t.features == 0#8 && t.pending == []) = true := by
  refine ⟨by decide, by decide, by decide, by decide, fun r => ?_, by decide, by decide⟩
  cases r <;> decide

/-- A node with more than one byte left, one with its last byte left, and a queue of nodes. -/
theorem witness_ByteConsumption :
    ([1#8, 2#8] : List Byte)[0]? = some 1#8 ∧ 0 + 1 < ([1#8, 2#8] : List Byte).length ∧
      ([1#8, 2#8] : List Byte)[1]? = some 2#8 ∧ 1 + 1 = ([1#8, 2#8] : List Byte).length ∧
      QueueWf sQ4.cfg.nodeCap sQ4.q ∧ sQ4.q ≠ [] :=
  ⟨rfl, by decide, rfl, rfl, q4_wf.1, by decide⟩

end Sys2Proof.Tests
end

section
/-!
How a byte leaves the queue and when none is left (spec/10_state.md R29, R30): one equation of
`consumeByte` per case of R29, the two readings of `queueEmpty`, and O60 from them.
-/

namespace Sys2Proof.Machine

/-! ### `consumeByte` (R29) -/

/-- The front node has more than this byte left: its cursor advances and it stays in front. -/
theorem consumeByte_cons_of_succ_lt {n : Node} {b : Byte} (ns : List Node)
    (hb : n.data[n.cursor]? = some b) (h : n.cursor + 1 < n.data.length) :
    consumeByte (n :: ns) = some (b, ⟨n.cursor + 1, n.data⟩ :: ns) := by
  simp [consumeByte, List.getD_eq_getElem?_getD, hb, h]

/-- This byte is the front node's last: the node is removed. -/
theorem consumeByte_cons_of_succ_eq {n : Node} {b : Byte} (ns : List Node)
    (hb : n.data[n.cursor]? = some b) (h : n.cursor + 1 = n.data.length) :
    consumeByte (n :: ns) = some (b, ns) := by
  simp [consumeByte, List.getD_eq_getElem?_getD, hb, h]

/-! ### `queueEmpty` (R30) -/

theorem queueEmpty_iff_queueBytes_eq_zero (q : List Node) :
    queueEmpty q = true ↔ queueBytes q = 0 := beq_iff_eq

theorem QueueWf.queueEmpty_iff_eq_nil {cap : Nat} {q : List Node} (h : QueueWf cap q) :
    queueEmpty q = true ↔ q = [] :=
  (queueEmpty_iff q).trans h.queueData_eq_nil

/-- Settles O60: the two cases of R29 are the equations of `consumeByte`, the sum of R30 is the
definition of `queueBytes`, and by R26 every node that remains has a byte left. -/
theorem byteConsumption : Obligations.ByteConsumption := by
  unfold Obligations.ByteConsumption
  refine ⟨rfl, fun n ns b hb => ⟨?advance, ?remove⟩, fun q => rfl, fun cap q hq => ⟨?bytes, ?nodes⟩⟩
  case advance => exact consumeByte_cons_of_succ_lt ns hb
  case remove => exact consumeByte_cons_of_succ_eq ns hb
  case bytes => exact queueEmpty_iff_queueBytes_eq_zero q
  case nodes => exact hq.queueEmpty_iff_eq_nil

end Sys2Proof.Machine
end

section
/-!
The dispatcher's checks (spec/40_register_dispatch.md R110 to R113): what `decodeAccess` answers
where a check fails, that such an answer is the outcome of the step where the host stops at a fault
(R271), and O6 and O7 from them.
-/

namespace Sys2Proof

/-- No descriptor has the address (R112). -/
theorem decodeAccess_unmapped {c : Config} {a : Access} (hlen : a.len ∈ c.accessLengths)
    (h : ∀ r, c.addrOf r ≠ a.addr) : decodeAccess c a = .error (.unmapped a.addr) := by
  simp [decodeAccess, hlen, Config.lookup_none h]

/-- The access is longer than the register at its address declares (R113). -/
theorem decodeAccess_tooLong {c : Config} (hwf : c.Wf) {a : Access} {r : Reg}
    (hlen : a.len ∈ c.accessLengths) (haddr : a.addr = c.addrOf r) (h : c.regLen < a.len) :
    decodeAccess c a = .error (.tooLong a.addr) := by
  simp [decodeAccess, hlen, haddr, Config.lookup_addrOf hwf, h]

namespace Machine

/-- An access to a register's address that passes the length checks (R95, R113) is legal. -/
theorem accessTo_of_len_le {c : Config} {a : Access} {r : Reg} (haddr : a.addr = c.addrOf r)
    (hlen : a.len ∈ c.accessLengths) (h : a.len ≤ c.regLen) : AccessTo c a r :=
  ⟨haddr, Config.lenOk_iff.2 ⟨hlen, h⟩⟩

/-- Under any policy, the host decides what a rejected access comes to (R271). -/
theorem step_of_decodeAccess_error {s : State} {a : Access} {rest : List Access} {e : Reject}
    (hp : s.pending = a :: rest) (hd : decodeAccess s.cfg a = .error e) :
    step s = underFaultPolicy { s with pending := rest } (rejectOutcome e) := by
  simp [step, hp, hd]

/-- Where the host stops at a fault (R271), the rejection is the outcome of the step. -/
theorem step_of_decodeAccess_error_of_halt {s : State} {a : Access} {rest : List Access}
    {e : Reject} (hhalt : s.cfg.hostFaultPolicy = .halt) (hp : s.pending = a :: rest)
    (hd : decodeAccess s.cfg a = .error e) : step s = rejectOutcome e := by
  rw [step_of_decodeAccess_error hp hd, underFaultPolicy_halt]
  exact hhalt

/-- Settles O6: an address no register has is not in the table, and at a register's address the
step of an access that passes the length checks is that register's. -/
theorem lookupByExactAddress : Obligations.LookupByExactAddress := by
  unfold Obligations.LookupByExactAddress
  refine fun s a rest hp hlen => ⟨fun hnone => ?unmapped, fun r hwf haddr hle => ?mapped⟩
  case unmapped =>
    have hd := decodeAccess_unmapped hlen hnone
    exact ⟨hd, fun hhalt => step_of_decodeAccess_error_of_halt hhalt hp hd⟩
  case mapped => exact step_reg hwf hp (accessTo_of_len_le haddr.symm hlen hle)

/-- Settles O7: the two cases of `a.len` against the declared length. -/
theorem oversizedAccessFaults : Obligations.OversizedAccessFaults := by
  unfold Obligations.OversizedAccessFaults
  refine fun s a rest r hwf hp hlen haddr => ⟨fun hlong => ?tooLong, fun hle => ?legal⟩
  case tooLong =>
    have hd := decodeAccess_tooLong hwf hlen haddr hlong
    exact ⟨hd, fun hhalt => step_of_decodeAccess_error_of_halt hhalt hp hd⟩
  case legal => exact decodeAccess_reg hwf (accessTo_of_len_le haddr hlen hle)

end Machine

end Sys2Proof
end

section
/-!
The encodings (spec/30_encoding.md): the decoder inverts the encoder on every format (O1), the
encoder inverts the two checked decoders (O2), ignored packet bits (O3) and the words of the spec's
examples (O4). A bus instruction is an access to a register, an ATA instruction a command, a packet
instruction a command with the operands of a packet; each format is treated once in that shape.
-/

namespace Sys2Proof

/-! ### Formats: bus transactions (R81) -/

theorem encode_readInstr (c : Config) (r : Reg) (n : Nat) :
    encode c (r.readInstr n) = encodeRead c r n := by cases r <;> rfl

theorem encode_writeInstr (c : Config) (r : Reg) (d : List Byte) :
    encode c (r.writeInstr d) = encodeWrite c r d := by cases r <;> rfl

theorem Reg.readInstr_format (r : Reg) (n : Nat) : (r.readInstr n).format = .bus := by
  cases r <;> rfl

theorem Reg.writeInstr_format (r : Reg) (d : List Byte) : (r.writeInstr d).format = .bus := by
  cases r <;> rfl

theorem Reg.readInstr_wf (c : Config) (r : Reg) (n : Nat) :
    (r.readInstr n).wf c = c.lenOk n := by cases r <;> rfl

theorem Reg.writeInstr_wf (c : Config) (r : Reg) (d : List Byte) :
    (r.writeInstr d).wf c = c.lenOk d.length := by cases r <;> rfl

/-- The bytes of an access are those of its instruction. -/
theorem encode_accessInstr {c : Config} {a : Access} {r : Reg} (h : a.addr = c.addrOf r) :
    encode c (a.instr r) = a.bytes := by
  cases a with
  | read x n => rw [show x = c.addrOf r from h]; exact encode_readInstr c r n
  | write x d => rw [show x = c.addrOf r from h]; exact encode_writeInstr c r d

theorem Access.instr_format (a : Access) (r : Reg) : (a.instr r).format = .bus := by
  cases a with
  | read x n => exact r.readInstr_format n
  | write x d => exact r.writeInstr_format d

theorem Access.instr_wf (c : Config) (a : Access) (r : Reg) : (a.instr r).wf c = c.lenOk a.len := by
  cases a with
  | read x n => exact r.readInstr_wf c n
  | write x d => exact r.writeInstr_wf c d

/-- The address of a transaction, from its four bytes. -/
theorem ofNat_leValue_leBytes (x : Word) : BitVec.ofNat 32 (leValue (leBytes 4 x.toNat)) = x := by
  have := x.isLt
  apply BitVec.eq_of_toNat_eq
  rw [leValue_leBytes, BitVec.toNat_ofNat]; omega

/-- The length of a transaction, from its byte (the layout holds 1 to 256). -/
theorem ofNat_pred_toNat_succ {n : Nat} (h : 1 ≤ n ∧ n ≤ 256) :
    (BitVec.ofNat 8 (n - 1)).toNat + 1 = n := by
  rw [BitVec.toNat_ofNat]; omega

/-- The front of a list of bytes is read back as the access that wrote it. -/
theorem parseAccess_bytes (a : Access) (rest : List Byte) (h : 1 ≤ a.len ∧ a.len ≤ 256) :
    parseAccess (a.bytes ++ rest) = .ok (a, rest) := by
  cases a with
  | read x n =>
    have hx := ofNat_leValue_leBytes x
    have hn := ofNat_pred_toNat_succ (n := n) h
    simp only [leBytes] at hx
    simp only [Access.bytes, leBytes, List.cons_append, List.nil_append, parseAccess, hx, hn,
      if_true]
  | write x d =>
    have hx := ofNat_leValue_leBytes x
    have hn := ofNat_pred_toNat_succ (n := d.length) h
    simp only [leBytes] at hx
    simp only [Access.bytes, leBytes, List.cons_append, List.nil_append, parseAccess, hx, hn]
    simp

/-- An access to a register is decoded from its bytes as that register's instruction. -/
theorem decode_bytes {c : Config} (hw : c.Wf) {a : Access} {r : Reg}
    (ha : Machine.AccessTo c a r) (rest : List Byte) :
    decode c .bus (a.bytes ++ rest) = .ok (a.instr r, rest) := by
  have hl := hw.lengths a.len (Config.lenOk_iff.1 ha.2).1
  simp only [decode, parseAccess_bytes a rest hl, decodeAccess_reg hw ha]

/-- An access that decodes is a legal access to a register. -/
theorem decodeAccess_ok {c : Config} {a : Access} {i : Instr} (h : decodeAccess c a = .ok i) :
    ∃ r, Machine.AccessTo c a r ∧ i = a.instr r := by
  rcases decodeAccess_cases c a with ⟨-, hd⟩ | ⟨-, -, hd⟩ | ⟨r, -, -, -, hd⟩ | ⟨r, ha, hd⟩ <;>
    rw [hd] at h <;> cases h
  exact ⟨r, ha, rfl⟩

/-- A bus instruction is an access to a register. -/
theorem Instr.exists_access_of_wf {c : Config} {i : Instr} (hf : i.format = .bus)
    (hi : i.wf c = true) : ∃ a r, Machine.AccessTo c a r ∧ i = a.instr r := by
  have hr : ∀ (r : Reg) (n : Nat), i = r.readInstr n →
      ∃ a r, Machine.AccessTo c a r ∧ i = a.instr r := by
    rintro r n rfl
    exact ⟨.read (c.addrOf r) n, r, ⟨rfl, r.readInstr_wf c n ▸ hi⟩, rfl⟩
  have hd : ∀ (r : Reg) (d : List Byte), i = r.writeInstr d →
      ∃ a r, Machine.AccessTo c a r ∧ i = a.instr r := by
    rintro r d rfl
    exact ⟨.write (c.addrOf r) d, r, ⟨rfl, r.writeInstr_wf c d ▸ hi⟩, rfl⟩
  cases i with
  | rStatusCommand n => exact hr .statusCommand n rfl
  | wStatusCommand d => exact hd .statusCommand d rfl
  | rAltstatDevctrl n => exact hr .altstatDevctrl n rfl
  | wAltstatDevctrl d => exact hd .altstatDevctrl d rfl
  | rData n => exact hr .data n rfl
  | wData d => exact hd .data d rfl
  | rErrorFeatures n => exact hr .errorFeatures n rfl
  | wErrorFeatures d => exact hd .errorFeatures d rfl
  | rIntreasonSectcnt n => exact hr .intreasonSectcnt n rfl
  | wIntreasonSectcnt d => exact hd .intreasonSectcnt d rfl
  | rSectnum n => exact hr .sectnum n rfl
  | wSectnum d => exact hd .sectnum d rfl
  | rBytecntLo n => exact hr .bytecntLo n rfl
  | wBytecntLo d => exact hd .bytecntLo d rfl
  | rBytecntHi n => exact hr .bytecntHi n rfl
  | wBytecntHi d => exact hd .bytecntHi d rfl
  | rDrvsel n => exact hr .drvsel n rfl
  | wDrvsel d => exact hd .drvsel d rfl
  | rGdapro n => exact hr .gdapro n rfl
  | wGdapro d => exact hd .gdapro d rfl
  | rGdstar n => exact hr .gdstar n rfl
  | wGdstar d => exact hd .gdstar d rfl
  | rGdlen n => exact hr .gdlen n rfl
  | wGdlen d => exact hd .gdlen d rfl
  | rGddir n => exact hr .gddir n rfl
  | wGddir d => exact hd .gddir d rfl
  | rGden n => exact hr .gden n rfl
  | wGden d => exact hd .gden d rfl
  | rGdst n => exact hr .gdst n rfl
  | wGdst d => exact hd .gdst d rfl
  | rGdlend n => exact hr .gdlend n rfl
  | wGdlend d => exact hd .gdlend d rfl
  | _ => cases hf

/-! ### Formats: ATA commands (R82, R83) -/

theorem encode_ataInstr (c : Config) (op : AtaOp) : encode c op.instr = [c.ataCode op] := by
  cases op <;> rfl

theorem AtaOp.instr_format (op : AtaOp) : op.instr.format = .ata := by cases op <;> rfl

theorem AtaOp.instr_wf (c : Config) (op : AtaOp) : op.instr.wf c = true := by cases op <;> rfl

/-- An ATA instruction is the instruction of a command. -/
theorem Instr.exists_ataOp {i : Instr} (hf : i.format = .ata) : ∃ op : AtaOp, i = op.instr := by
  cases i with
  | nop => exact ⟨.nop, rfl⟩
  | reset => exact ⟨.reset, rfl⟩
  | diagnostic => exact ⟨.diagnostic, rfl⟩
  | packet => exact ⟨.packet, rfl⟩
  | identify => exact ⟨.identify, rfl⟩
  | setFeatures => exact ⟨.setFeatures, rfl⟩
  | _ => cases hf

theorem decodeCommand_code {c : Config} (hw : c.Wf) (op : AtaOp) :
    decodeCommand c (c.ataCode op) = .ok op.instr := by
  simp only [decodeCommand, Config.ataOp_code hw]

theorem decodeCommand_ok {c : Config} {b : Byte} {i : Instr} (h : decodeCommand c b = .ok i) :
    ∃ op, c.ataCode op = b ∧ i = op.instr := by
  unfold decodeCommand at h
  cases hop : c.ataOp b with
  | none => simp [hop] at h
  | some op => exact ⟨op, Config.ataOp_some hop, by simpa [hop] using h.symm⟩

/-! ### Formats: packets (R84 to R94) -/

theorem decodePacket_code {c : Config} (hw : c.Wf) {op : PktOp} {p : Packet}
    (h : p[0] = c.pktCode op) : decodePacket c p = .ok (op.instr p) := by
  simp only [decodePacket, h, Config.pktOp_code hw]

theorem parsePacket_toList (p : Packet) (rest : List Byte) :
    parsePacket (p.toList ++ rest) = .ok (p, rest) := by
  obtain ⟨⟨l⟩, hl⟩ := p
  match l, hl with
  | [_, _, _, _, _, _, _, _, _, _, _, _], _ => rfl

theorem byte2_append_byte1_append_byte0 (v : BitVec 24) : byte2 v ++ byte1 v ++ byte0 v = v := by
  simp only [byte2, byte1, byte0]
  rw [BitVec.extractLsb'_append_extractLsb'_eq_extractLsb' (show 16 = 8 + 8 from rfl),
    BitVec.extractLsb'_append_extractLsb'_eq_extractLsb' (show 8 = 0 + 8 from rfl)]
  exact BitVec.extractLsb'_eq_self

theorem Machine.highByte_append_lowByte (v : Half) : highByte v ++ lowByte v = v := by
  simp only [highByte, lowByte]
  rw [BitVec.extractLsb'_append_extractLsb'_eq_extractLsb' (show 8 = 0 + 8 from rfl)]
  exact BitVec.extractLsb'_eq_self

theorem setWidth_extractLsb'_zero (v : BitVec 1) : (v.setWidth 8).extractLsb' 0 1 = v := by
  revert v; decide

/-- The three fields of READ's second byte (R91). -/
theorem readFields_append (sel : BitVec 4) (exp : BitVec 3) (ptype : BitVec 1) :
    (sel ++ exp ++ ptype : Byte).extractLsb' 4 4 = sel ∧
    (sel ++ exp ++ ptype : Byte).extractLsb' 1 3 = exp ∧
    (sel ++ exp ++ ptype : Byte).extractLsb' 0 1 = ptype := by
  revert sel exp ptype; decide

/-- A packet instruction is encoded as a packet of its opcode that carries its operands. -/
theorem Instr.exists_packet (c : Config) {i : Instr} (hf : i.format = .pkt) :
    ∃ (op : PktOp) (p : Packet), p[0] = c.pktCode op ∧ encode c i = p.toList ∧ op.instr p = i := by
  cases i with
  | testUnitReady =>
    exact ⟨.testUnitReady, ⟨⟨encode c .testUnitReady⟩, rfl⟩, rfl, rfl, rfl⟩
  | setMode => exact ⟨.setMode, ⟨⟨encode c .setMode⟩, rfl⟩, rfl, rfl, rfl⟩
  | startDisk => exact ⟨.startDisk, ⟨⟨encode c .startDisk⟩, rfl⟩, rfl, rfl, rfl⟩
  | vendor71 => exact ⟨.vendor71, ⟨⟨encode c .vendor71⟩, rfl⟩, rfl, rfl, rfl⟩
  | reqMode start len =>
    exact ⟨.reqMode, ⟨⟨encode c (.reqMode start len)⟩, rfl⟩, rfl, rfl, rfl⟩
  | reqError len => exact ⟨.reqError, ⟨⟨encode c (.reqError len)⟩, rfl⟩, rfl, rfl, rfl⟩
  | readToc session alloc =>
    refine ⟨.readToc, ⟨⟨encode c (.readToc session alloc)⟩, rfl⟩, rfl, rfl, ?_⟩
    show Instr.readToc ((session.setWidth 8).extractLsb' 0 1)
      (Machine.highByte alloc ++ Machine.lowByte alloc) = _
    rw [setWidth_extractLsb'_zero, Machine.highByte_append_lowByte]
  | read sel exp ptype fad cnt =>
    refine ⟨.read, ⟨⟨encode c (.read sel exp ptype fad cnt)⟩, rfl⟩, rfl, rfl, ?_⟩
    obtain ⟨hs, he, hp⟩ := readFields_append sel exp ptype
    show Instr.read ((sel ++ exp ++ ptype : Byte).extractLsb' 4 4)
      ((sel ++ exp ++ ptype : Byte).extractLsb' 1 3) ((sel ++ exp ++ ptype : Byte).extractLsb' 0 1)
      (byte2 fad ++ byte1 fad ++ byte0 fad) (byte2 cnt ++ byte1 cnt ++ byte0 cnt) = _
    rw [hs, he, hp, byte2_append_byte1_append_byte0, byte2_append_byte1_append_byte0]
  | _ => cases hf

/-! ### Ignored packet bits (R98) -/

/-- Packets that agree on the fields of a command's layout are the same instruction of it. -/
theorem PktOp.instr_congr {c : Config} {op : PktOp} {p p' : Packet} (h0 : c.pktCode op = p[0])
    (hmode : p[0] = c.pktReqMode → p'[2] = p[2] ∧ p'[4] = p[4])
    (herror : p[0] = c.pktReqError → p'[4] = p[4])
    (htoc : p[0] = c.pktReadToc → p'[1].getLsbD 0 = p[1].getLsbD 0 ∧ p'[3] = p[3] ∧ p'[4] = p[4])
    (hread : p[0] = c.pktRead → p'[1] = p[1] ∧ p'[2] = p[2] ∧ p'[3] = p[3] ∧ p'[4] = p[4] ∧
      p'[8] = p[8] ∧ p'[9] = p[9] ∧ p'[10] = p[10]) :
    op.instr p' = op.instr p := by
  cases op with
  | testUnitReady | setMode | startDisk | vendor71 => rfl
  | reqMode =>
    obtain ⟨h2, h4⟩ := hmode h0.symm
    simp only [PktOp.instr, Packet.reqModeStart, Packet.reqModeLen, h2, h4]
  | reqError =>
    simp only [PktOp.instr, Packet.reqErrorLen, herror h0.symm]
  | readToc =>
    obtain ⟨h1, h3, h4⟩ := htoc h0.symm
    have hs : p'.tocSession = p.tocSession := by
      ext j hj
      obtain rfl : j = 0 := by omega
      simpa [Packet.tocSession] using h1
    simp only [PktOp.instr, hs, Packet.tocAlloc, h3, h4]
  | read =>
    obtain ⟨h1, h2, h3, h4, h8, h9, h10⟩ := hread h0.symm
    simp only [PktOp.instr, Packet.readSel, Packet.readExp, Packet.readPtype, Packet.readFad,
      Packet.readCnt, h1, h2, h3, h4, h8, h9, h10]

/-! ### The obligations -/

/-- Settles O1, format by format: the bytes of an access, of a command and of a packet are read back
as what they were made of, and that decodes by the tables of distinct addresses and codes. -/
theorem decodeOfEncode : Obligations.DecodeOfEncode := by
  unfold Obligations.DecodeOfEncode
  intro c i rest hw hi
  cases hf : i.format with
  | bus =>
    obtain ⟨a, r, ha, rfl⟩ := Instr.exists_access_of_wf hf hi
    rw [encode_accessInstr ha.1]
    exact decode_bytes hw ha rest
  | ata =>
    obtain ⟨op, rfl⟩ := Instr.exists_ataOp hf
    simp only [encode_ataInstr, List.cons_append, List.nil_append, decode, decodeCommand_code hw]
  | pkt =>
    obtain ⟨op, p, h0, he, hp⟩ := Instr.exists_packet c hf
    simp only [decode, he, parsePacket_toList, decodePacket_code hw h0, hp]

/-- Settles O2: an access that decodes goes to a register at a legal length, a command byte that
decodes is the code of its command. -/
theorem encodeOfDecode : Obligations.EncodeOfDecode := by
  unfold Obligations.EncodeOfDecode
  refine fun c _ => ⟨fun a i h => ?access, fun b i h => ?command⟩
  case access =>
    obtain ⟨r, ha, rfl⟩ := decodeAccess_ok h
    exact ⟨a.instr_wf c r ▸ ha.2, a.instr_format r, encode_accessInstr ha.1⟩
  case command =>
    obtain ⟨op, rfl, rfl⟩ := decodeCommand_ok h
    exact ⟨op.instr_wf c, op.instr_format, encode_ataInstr c op⟩

/-- Settles O3: the opcode chooses the command, and the command reads only the fields of its
layout. -/
theorem ignoredPacketBits : Obligations.IgnoredPacketBits := by
  unfold Obligations.IgnoredPacketBits
  intro c p p' h0 hmode herror htoc hread
  unfold decodePacket
  rw [h0]
  cases hop : c.pktOp p[0] with
  | none => rfl
  | some op =>
    simp only [PktOp.instr_congr (Config.pktOp_some hop) hmode herror htoc hread]

/-- Settles O4 by running the decoders on the written-out words. -/
theorem specWordsDecode : Obligations.SpecWordsDecode := by
  unfold Obligations.SpecWordsDecode
  decide

end Sys2Proof
end

section
/-!
The step and the registers: what the oldest access comes to (O5, O59), the replies of register reads
(spec/20_memory.md R55; O14, O15, O16), what register writes store (O17, O18, O19) and the bounds of
the protection window (O20).
-/

namespace Sys2Proof.Machine

/-! ### The oldest access (R110 to R114) -/

theorem step_of_decodeAccess_ok {s : State} {a : Access} {rest : List Access} {i : Instr}
    (hp : s.pending = a :: rest) (hd : decodeAccess s.cfg a = .ok i) :
    step s = exec i { s with pending := rest } := by
  simp only [step, hp, hd]

theorem step_of_pending_nil {s : State} (hp : s.pending = []) : step s = .next s := by
  simp only [step, hp]

/-- Settles O5: the three shapes of the pending accesses, a legal access to a register being one that
decodes. -/
theorem stepRunsDecodedAccess : Obligations.StepRunsDecodedAccess := by
  unfold Obligations.StepRunsDecodedAccess
  exact ⟨fun s a rest i hp hd => step_of_decodeAccess_ok hp hd,
    fun s a rest r hw hp ha => step_reg hw hp ha, fun s hp => step_of_pending_nil hp⟩

/-- A rejection whose outcome is UnimplementedAccess drops the access where the host goes on (R114). -/
theorem step_of_unimplementedAccess {s : State} {a : Access} {rest : List Access} {e : Reject}
    {what : AccessProblem} {x : Word} (hp : s.pending = a :: rest)
    (hpol : s.cfg.hostFaultPolicy ≠ .halt) (hd : decodeAccess s.cfg a = .error e)
    (he : rejectOutcome e = .fault (.unimplementedAccess what x)) :
    step s = .next { s with pending := rest } := by
  rw [step_of_decodeAccess_error hp hd, he]
  exact underFaultPolicy_access (s := { s with pending := rest }) hpol what x

/-- An access longer than the declared length is rejected, at a register's address or elsewhere. -/
theorem decodeAccess_of_regLen_lt {c : Config} {a : Access} (hlen : a.len ∈ c.accessLengths)
    (h : c.regLen < a.len) :
    decodeAccess c a = .error (.unmapped a.addr) ∨ decodeAccess c a = .error (.tooLong a.addr) := by
  rcases decodeAccess_cases c a with ⟨hn, -⟩ | ⟨-, -, hd⟩ | ⟨r, -, -, -, hd⟩ | ⟨r, hr, -⟩
  · exact absurd hlen hn
  · exact .inl hd
  · exact .inr hd
  · have := (Config.lenOk_iff.1 hr.2).2; omega

/-- Settles O59: both causes of UnimplementedAccess are rejections of the dispatcher. -/
theorem accessFaultUnderOtherPolicies : Obligations.AccessFaultUnderOtherPolicies := by
  unfold Obligations.AccessFaultUnderOtherPolicies
  refine fun s a rest hp hpol hlen => ⟨fun hnone => ?unmapped, fun hlong => ?tooLong⟩
  case unmapped => exact step_of_unimplementedAccess hp hpol (decodeAccess_unmapped hlen hnone) rfl
  case tooLong =>
    rcases decodeAccess_of_regLen_lt hlen hlong with hd | hd
    · exact step_of_unimplementedAccess hp hpol hd rfl
    · exact step_of_unimplementedAccess hp hpol hd rfl

/-! ### Replies (R55) -/

/-- The reply of an 8-bit register is its zero-extension. -/
theorem replied_replyByte (s : State) (v : Byte) (len : Nat) :
    Replied s (s.replyByte v len) v.toNat len := by
  have h := replied_reply s (v.setWidth 32) len
  rwa [BitVec.toNat_setWidth_of_le (by omega)] at h

/-- Settles O14: each handler is one reply. -/
theorem taskFileReads : Obligations.TaskFileReads := by
  unfold Obligations.TaskFileReads
  refine fun s len => ⟨⟨_, rfl, replied_replyByte s s.status len⟩, ⟨_, rfl, ?error⟩,
    ⟨_, rfl, replied_replyByte s s.intreason len⟩, ⟨_, rfl, replied_replyByte s s.sectnum len⟩,
    ⟨_, rfl, ?low⟩, ⟨_, rfl, ?high⟩, ⟨_, rfl, replied_replyByte s s.drvsel len⟩⟩
  case error => rw [← s.errorWord_toNat]; exact replied_reply s s.errorWord len
  case low => rw [← lowByte_toNat]; exact replied_replyByte s _ len
  case high => rw [← highByte_toNat]; exact replied_replyByte s _ len

/-- Settles O15: the reply is made in the state with the line cleared, since STATUS does not depend on
the line. -/
theorem statusReadClearsInterrupt : Obligations.StatusReadClearsInterrupt := by
  unfold Obligations.StatusReadClearsInterrupt
  exact fun s len => ⟨_, rfl, replied_replyByte { s with irq := false } s.status len⟩

/-- Settles O16: each handler is one reply. -/
theorem dmaRegisterReads : Obligations.DmaRegisterReads := by
  unfold Obligations.DmaRegisterReads
  exact fun s len => ⟨⟨_, rfl, replied_reply s s.gdapro len⟩, ⟨_, rfl, replied_reply s s.gdstar len⟩,
    ⟨_, rfl, replied_reply s s.gdlen len⟩, ⟨_, rfl, replied_reply s s.gddir len⟩,
    ⟨_, rfl, replied_reply s s.gden len⟩, ⟨_, rfl, replied_reply s 0#32 len⟩,
    ⟨_, rfl, replied_reply s s.gdlend len⟩⟩

/-! ### Stores -/

/-- Settles O17: each handler is one update with the low byte of the value, or with a half of BYTECNT
replaced by it. -/
theorem taskFileWrites : Obligations.TaskFileWrites := by
  unfold Obligations.TaskFileWrites
  refine fun s d => ⟨⟨_, rfl, rfl, byteOf_toNat d⟩, ⟨_, rfl, rfl, byteOf_toNat d⟩,
    ⟨_, rfl, rfl, byteOf_toNat d⟩, ⟨_, rfl, rfl, byteOf_toNat d⟩, ⟨_, rfl, rfl, ?low⟩,
    ⟨_, rfl, rfl, ?high⟩, ⟨_, rfl, rfl, byteOf_toNat d⟩⟩
  case low => rw [← byteOf_toNat]; exact withLow_toNat _ _
  case high => rw [← byteOf_toNat]; exact withHigh_toNat _ _

/-- Settles O18: each handler is one update with the value as 32 bits. -/
theorem dmaRegisterWrites : Obligations.DmaRegisterWrites := by
  unfold Obligations.DmaRegisterWrites
  exact fun s d => ⟨⟨_, rfl, rfl, wordOf_toNat d⟩, ⟨_, rfl, rfl, wordOf_toNat d⟩,
    ⟨_, rfl, rfl, wordOf_toNat d⟩, ⟨_, rfl, rfl, wordOf_toNat d⟩, rfl⟩

/-! ### The protection window (R37, R231) -/

/-- The bits of GDAPRO that are stored. -/
theorem gdaproMask_getLsbD (j : Nat) :
    gdaproMask.getLsbD j = (decide (8 ≤ j ∧ j ≤ 14) || decide (j ≤ 6)) := by
  by_cases hj : j < 32
  · have h : ∀ k : Fin 32, gdaproMask.getLsbD k =
        (decide (8 ≤ k.val ∧ k.val ≤ 14) || decide (k.val ≤ 6)) := by decide
    exact h ⟨j, hj⟩
  · rw [BitVec.getLsbD_of_ge _ _ (by omega)]
    have h1 : ¬ (8 ≤ j ∧ j ≤ 14) := by omega
    have h2 : ¬ j ≤ 6 := by omega
    simp [h1, h2]

/-- The stored value of GDAPRO, bit by bit. -/
theorem wordOf_and_gdaproMask_getLsbD (d : List Byte) (j : Nat) :
    (wordOf d &&& gdaproMask).getLsbD j =
      ((decide (8 ≤ j ∧ j ≤ 14) || decide (j ≤ 6)) && (leValue d).testBit j) := by
  rw [BitVec.getLsbD_and, gdaproMask_getLsbD, wordOf, BitVec.getLsbD_ofNat]
  by_cases hj : j < 32
  · simp [hj, Bool.and_comm]
  · have h1 : ¬ (8 ≤ j ∧ j ≤ 14) := by omega
    have h2 : ¬ j ≤ 6 := by omega
    simp [h1, h2]

theorem execWGdapro_of_code {s : State} {d : List Byte}
    (h : leValue d / 65536 % 65536 = s.cfg.gdaproCode.toNat) :
    execWGdapro d s = .next { s with gdapro := wordOf d &&& gdaproMask } :=
  if_pos ((wordOf_code_iff d _).2 h)

theorem execWGdapro_of_not_code {s : State} {d : List Byte}
    (h : leValue d / 65536 % 65536 ≠ s.cfg.gdaproCode.toNat) : execWGdapro d s = .next s :=
  if_neg fun hc => h ((wordOf_code_iff d _).1 hc)

/-- Settles O19: the two branches of the handler. -/
theorem protectWriteNeedsCode : Obligations.ProtectWriteNeedsCode := by
  unfold Obligations.ProtectWriteNeedsCode
  exact fun s d => ⟨fun h => ⟨_, execWGdapro_of_code h, rfl, wordOf_and_gdaproMask_getLsbD d⟩,
    fun h => execWGdapro_of_not_code h⟩

/-- A field of GDAPRO lies in bits 26:20 of a bound, above the zeros of its base. -/
theorem bound_toNat (f : BitVec 7) :
    (0x08000000#32 ||| (f.setWidth 32 <<< 20)).toNat = 0x08000000 + f.toNat * 1048576 ∧
    (0x080FFFFF#32 ||| (f.setWidth 32 <<< 20)).toNat = 0x080FFFFF + f.toNat * 1048576 := by
  revert f; decide

theorem topField_toNat (g : Word) : (topField g).toNat = g.toNat / 256 % 128 := by
  simp only [topField, BitVec.extractLsb'_toNat, Nat.shiftRight_eq_div_pow]

theorem botField_toNat (g : Word) : (botField g).toNat = g.toNat % 128 := by
  simp [botField, BitVec.extractLsb'_toNat]

/-- Settles O20: each bound is its base and its field. -/
theorem protectionBounds : Obligations.ProtectionBounds := by
  unfold Obligations.ProtectionBounds
  intro g
  rw [← topField_toNat, ← botField_toNat]
  exact ⟨(bound_toNat (topField g)).1, (bound_toNat (botField g)).2⟩

end Sys2Proof.Machine
end

section
/-!
ATA commands and data writes: the command write (spec/41_ata_commands.md R150, R157; O10, O11, O25),
the six commands (R151 to R156; O21 to O24), and the data writes that end no packet
(spec/42_packet_commands.md R172, R173, R178; O26, O27).
-/

namespace Sys2Proof.Machine

/-! ### The command write -/

theorem byteOf_eq_iff (d : List Byte) (b : Byte) : byteOf d = b ↔ b.toNat = leValue d % 256 := by
  rw [← BitVec.toNat_inj, byteOf_toNat, eq_comm]

/-- A command write, where it is decoded, is the command its low byte names. -/
theorem execWStatusCommand_code {s : State} (hw : s.cfg.Wf) (ho : s.CommandOpen) {d : List Byte}
    {op : AtaOp} (h : (s.cfg.ataCode op).toNat = leValue d % 256) :
    execWStatusCommand d s = runCommand op s := by
  rw [execWStatusCommand, commandWrite_open ho, (byteOf_eq_iff d _).2 h, Config.ataOp_code hw]

/-- Settles O10: the command is total where it is decoded, IDENTIFY if a node may be queued. -/
theorem commandWriteRunsCommand : Obligations.CommandWriteRunsCommand := by
  unfold Obligations.CommandWriteRunsCommand
  intro s d op hw ho hc hid
  rcases runCommand_total (op := op) ho with ⟨t, ht⟩ | ⟨hop, -, hmax⟩
  · exact ⟨t, (execWStatusCommand_code hw ho hc).trans ht, (exec_ataInstr op s).trans ht⟩
  · exact absurd hmax (hid hop)

/-- Settles O11: no code is found in the table of commands. -/
theorem unknownCommandFaults : Obligations.UnknownCommandFaults := by
  unfold Obligations.UnknownCommandFaults
  intro s d cmd ho hc hnone
  show commandWrite (byteOf d) s = _
  rw [commandWrite_open ho, (byteOf_eq_iff d cmd).2 hc, Config.ataOp_none hnone]

/-- Settles O25: the gate of R150 is closed, for the write and for each command. -/
theorem commandRefusedOutsideNormal : Obligations.CommandRefusedOutsideNormal := by
  unfold Obligations.CommandRefusedOutsideNormal
  refine fun s d h => ⟨?write, fun op => (exec_ataInstr op s).trans (runCommand_closed h)⟩
  case write =>
    show commandWrite (byteOf d) s = _
    exact commandGate_closed h _

/-! ### The commands -/

/-- Settles O21: behind the gate of R150 the three commands leave the state. -/
theorem noEffectCommands : Obligations.NoEffectCommands := by
  unfold Obligations.NoEffectCommands
  exact fun s ho => ⟨commandGate_open ho _, commandGate_open ho _, commandGate_open ho _⟩

/-- Settles O22: the bits of the one update that PACKET is. -/
theorem packetCommandEffect : Obligations.PacketCommandEffect := by
  unfold Obligations.PacketCommandEffect
  intro s ho
  refine ⟨_, execPacket_eq ho, rfl, ?check, ?drq, fun j h0 h3 => ?status, ?cod, ?io,
    fun j h0 h1 => ?reason⟩
  case check => simp only [State.check, withBit_getLsbD]; simp
  case drq => simp only [State.drq, withBit_getLsbD]; simp
  case status => simp [withBit_getLsbD, h0, h3]
  case cod => simp only [State.cod, withBit_getLsbD]; simp
  case io => simp only [State.io, withBit_getLsbD]; simp
  case reason => simp [withBit_getLsbD, h0, h1]

/-- Settles O23: the bits of the one update that IDENTIFY is if a node may be queued. -/
theorem identifyEffect : Obligations.IdentifyEffect := by
  unfold Obligations.IdentifyEffect
  intro s hw ho hmax
  rcases execIdentify_cases ho with ⟨h, -⟩ | ⟨-, h0⟩
  · refine ⟨_, h, rfl, ?bytes, ?bsy, ?drq, fun j h3 h7 => ?status⟩
    case bytes => simpa using hw.ident
    case bsy => simp only [State.bsy, withBit_getLsbD]; simp
    case drq => simp only [State.drq, withBit_getLsbD]; simp
    case status => simp [withBit_getLsbD, h3, h7]
  · exact absurd h0 hmax

/-- FEATURES[6:0], as a number. -/
theorem and_0x7F_eq_three_iff (v : Byte) : v &&& 0x7F#8 = 3#8 ↔ v.toNat % 128 = 3 := by
  revert v; decide

/-- The masks of R156 and the bits outside them, as numbers. -/
theorem and_modeMasks_toNat (v : Byte) :
    (v &&& 0xFE#8).toNat = v.toNat / 2 * 2 ∧ (v &&& 0x01#8).toNat = v.toNat % 2 ∧
    (v &&& 0xF8#8).toNat = v.toNat / 8 * 8 ∧ (v &&& 0x07#8).toNat = v.toNat % 8 := by
  revert v; decide

/-- The five patterns of R156 select disjoint ranges of the sector count, each with its entry. -/
theorem transferModes_toNat (sc : Byte) (m : TransferModes) :
    ((transferModes sc m).pioDflt.toNat = if sc.toNat < 2 then sc.toNat else m.pioDflt.toNat) ∧
    ((transferModes sc m).pioFlow.toNat =
      if 8 ≤ sc.toNat ∧ sc.toNat < 16 then sc.toNat - 8 else m.pioFlow.toNat) ∧
    ((transferModes sc m).swDma.toNat =
      if 16 ≤ sc.toNat ∧ sc.toNat < 24 then sc.toNat - 16 else m.swDma.toNat) ∧
    ((transferModes sc m).pseudoDma.toNat =
      if 24 ≤ sc.toNat ∧ sc.toNat < 32 then sc.toNat - 24 else m.pseudoDma.toNat) ∧
    ((transferModes sc m).mwDma.toNat =
      if 32 ≤ sc.toNat ∧ sc.toNat < 40 then sc.toNat - 32 else m.mwDma.toNat) := by
  obtain ⟨hFE, h01, hF8, h07⟩ := and_modeMasks_toNat sc
  simp only [transferModes, apply_ite TransferModes.pioDflt, apply_ite TransferModes.pioFlow,
    apply_ite TransferModes.swDma, apply_ite TransferModes.pseudoDma, apply_ite TransferModes.mwDma,
    apply_ite BitVec.toNat, ← BitVec.toNat_inj, hFE, h01, hF8, h07, BitVec.reduceToNat, ite_self]
  refine ⟨?_, ?_, ?_, ?_, ?_⟩ <;> split_ifs <;> omega

/-- Settles O24: SET_FEATURES is one update of the table, by the patterns or not at all. -/
theorem setFeaturesEffect : Obligations.SetFeaturesEffect := by
  unfold Obligations.SetFeaturesEffect
  intro s ho
  refine ⟨_, execSetFeatures_eq ho, rfl, ?_⟩
  simp only [and_0x7F_eq_three_iff]
  split
  · exact transferModes_toNat s.sectcnt s.tmode
  · rfl

/-! ### Data writes -/

theorem execWData_normal {s : State} (h : s.pstate = .normal) (d : List Byte) :
    execWData d s = .next s := by simp only [execWData, h]

/-- The packet after one more word, byte by byte. -/
theorem appendPacketWord_pkt_toNat {s : State} {k : Nat} (hk : s.pcnt = k) (d : List Byte) (i : Nat)
    (hi : i < 12) :
    ((appendPacketWord (halfOf d) s).pkt[i]).toNat =
      if i = k then leValue d % 256
      else if i = k + 1 then leValue d / 256 % 256 else s.pkt[i].toNat := by
  have hlow : (lowByte (halfOf d)).toNat = leValue d % 256 := by
    rw [lowByte_toNat, halfOf_toNat]; omega
  have hhigh : (highByte (halfOf d)).toNat = leValue d / 256 % 256 := by
    rw [highByte_toNat, halfOf_toNat]; omega
  simp only [appendPacketWord, hk, Int.toNat_natCast, Vector.getElem_setIfInBounds]
  by_cases h1 : k + 1 = i
  · rw [if_pos h1, if_neg (by omega), if_pos h1.symm, hhigh]
  · rw [if_neg h1]
    by_cases h0 : k = i
    · rw [if_pos h0, if_pos h0.symm, hlow]
    · rw [if_neg h0, if_neg (Ne.symm h0), if_neg (Ne.symm h1)]

/-- Settles O26: in NORMAL by definition; in AWAITING_PACKET the write is one more word. -/
theorem dataWriteAccumulates : Obligations.DataWriteAccumulates := by
  unfold Obligations.DataWriteAccumulates
  refine fun s d => ⟨fun h => execWData_normal h d, fun k h hk hle _ => ?_⟩
  have hne : s.pcnt ≠ 10 := by omega
  have hnext : execWData d s = .next (appendPacketWord (halfOf d) s) := by
    rw [execWData_awaiting h, packetWrite_eq, if_neg hne]
  exact ⟨_, hnext, by rw [← hk]; rfl, appendPacketWord_pkt_toNat hk d⟩

/-- Settles O27: the two branches of R178. -/
theorem modeDataInput : Obligations.ModeDataInput := by
  unfold Obligations.ModeDataInput
  intro s d h
  have hw : exec (.wData d) s = modeDataWrite d.length s := execWData_modeData h d
  rw [hw, modeDataWrite_eq]
  refine ⟨fun hpos => by rw [if_neg (by omega)], fun hle => ⟨_, by rw [if_pos hle], rfl, ?drq,
    fun j h3 => ?status⟩⟩
  case drq => simp only [State.drq, withBit_getLsbD]; simp
  case status => simp [withBit_getLsbD, h3]

end Sys2Proof.Machine
end

section
/-!
Packets and packet commands (spec/42_packet_commands.md): the data write that completes a packet
(R174, R184; O12), the packet protocol of SENDPKT (spec/30_encoding.md R101; O13) and the effect of
each packet command (R175 to R183; O28 to O38).
-/

namespace Sys2Proof.Machine

/-! ### Dispatch (R174, R184) -/

/-- A completing data write is the packet command of the packet, on a state that holds it. -/
theorem execWData_eq_exec_pktInstr {s : State} {d : List Byte} {p : Packet} {op : PktOp}
    (hw : s.cfg.Wf) (hc : CompletesPacket s d p) (h : s.cfg.pktCode op = p[0]) :
    execWData d s = exec (op.instr p) { s with pkt := p, pcnt := 12 } := by
  rw [execWData_completes hc, exec_pktInstr]
  exact dispatchPacket_eq (s := { s with pkt := p, pcnt := 12 }) hw h

/-- The state a packet command leaves the protocol in (R22). -/
theorem runPacket_pstate {op : PktOp} {p : Packet} {s t : State} (h : runPacket op p s = .next t) :
    t.pstate = if op = .setMode then .awaitingModeData else .normal := by
  rcases runPacket_next h with ⟨rfl, ht⟩ | ⟨rfl, ht⟩ | ⟨rfl, ht⟩ | ⟨rfl, ht⟩ | ⟨hop, n, b, -, rfl, -⟩
  · rw [execTestUnitReady_eq] at ht; cases ht; rfl
  · rw [execStartDisk_eq] at ht; cases ht; rfl
  · obtain ⟨-, rfl⟩ := execSetMode_next ht; rfl
  · obtain ⟨-, -, ⟨bs, -, -, -, rfl⟩ | ⟨bs, -, -, -, -, rfl⟩⟩ := execRead_next ht <;> rfl
  · rcases hop with rfl | rfl | rfl | rfl <;> rfl

/-- Settles O12: the dispatch of the completed packet, by its opcode. -/
theorem lastDataWriteRunsPacket : Obligations.LastDataWriteRunsPacket := by
  unfold Obligations.LastDataWriteRunsPacket
  refine fun s d p hw hc => ⟨fun op hop => ?known, fun hnone => ?unknown⟩
  case known =>
    have he : exec (.wData d) s = _ := execWData_eq_exec_pktInstr hw hc hop
    refine ⟨he, fun t ht => ?_⟩
    rw [he, exec_pktInstr] at ht
    exact runPacket_pstate ht
  case unknown =>
    show execWData d s = _
    rw [execWData_completes hc, dispatchPacket]
    simp only [Config.pktOp_none hnone, rejectOutcome]

/-! ### SENDPKT (R101) -/

/-- `t` with the packet `q`, of which `k` words have been written, and the pending accesses `ps`. -/
def State.withWords (t : State) (q : Packet) (k : Nat) (ps : List Access) : State :=
  { t with pkt := q, pcnt := (2 * k : Nat), pending := ps }

/-- The leading `n` bytes of two packets are the same. -/
def SamePrefix (n : Nat) (p q : Packet) : Prop := ∀ (i : Nat) (hi : i < 12), i < n → q[i] = p[i]

/-- Two bytes more, and two more bytes are the same. -/
theorem SamePrefix.setIfInBounds {n : Nat} {p q : Packet} (h : SamePrefix n p q)
    (h0 : n < 12) (h1 : n + 1 < 12) :
    SamePrefix (n + 2) p ((q.setIfInBounds n p[n]).setIfInBounds (n + 1) p[n + 1]) := by
  intro i hi hlt
  rw [Vector.getElem_setIfInBounds, Vector.getElem_setIfInBounds]
  by_cases hi1 : n + 1 = i
  · subst hi1; exact if_pos rfl
  · rw [if_neg hi1]
    by_cases hi0 : n = i
    · subst hi0; exact if_pos rfl
    · rw [if_neg hi0]; exact h i hi (by omega)

/-- Packets that agree on all twelve bytes are equal. -/
theorem SamePrefix.eq {p q : Packet} (h : SamePrefix 12 p q) : q = p :=
  Vector.ext fun i hi => h i hi hi

/-- The data write of a word of `p`, before the last. -/
theorem step_withWords {t : State} {p q : Packet} {k : Nat} (hk : 2 * k + 1 < 10)
    (hw : t.cfg.Wf) (hl : t.cfg.lenOk 2 = true) (hps : t.pstate = .awaitingPacket)
    (hq : SamePrefix (2 * k) p q) (rest : List Access) :
    ∃ q', step (t.withWords q k (.write (t.cfg.addrOf .data) [p[2 * k], p[2 * k + 1]] :: rest)) =
        .next (t.withWords q' (k + 1) rest) ∧ SamePrefix (2 * (k + 1)) p q' := by
  obtain ⟨u, hu, -, -, hcnt, hpend, hpkt, hframe⟩ := step_packetWord_counted
    (s := t.withWords q k (.write (t.cfg.addrOf .data) [p[2 * k], p[2 * k + 1]] :: rest))
    (2 * k) hw hl hps rfl (by omega) rfl
  refine ⟨u.pkt, hu.trans (congrArg _ ?_), hpkt ▸ hq.setIfInBounds _ _⟩
  have hu' := hframe u.pkt u.pcnt u.pending
  rw [hcnt, hpend] at hu'
  calc u = { u with pkt := u.pkt, pcnt := (2 * k + 2 : Nat), pending := rest } := by
        rw [← hcnt, ← hpend]
    _ = t.withWords u.pkt (k + 1) rest := hu'

/-- A 16-bit write carries its two bytes as R173 takes them from the value. -/
theorem ofNat_leValue_pair (a b : Byte) :
    BitVec.ofNat 8 (leValue [a, b]) = a ∧ BitVec.ofNat 8 (leValue [a, b] / 256) = b := by
  have ha := a.isLt
  have hb := b.isLt
  constructor <;> apply BitVec.eq_of_toNat_eq <;> simp only [BitVec.toNat_ofNat, leValue] <;> omega

/-- The last word of `p` completes it. -/
theorem completesPacket_withWords {t : State} {p q : Packet} (hps : t.pstate = .awaitingPacket)
    (hq : SamePrefix 10 p q) (ps : List Access) :
    CompletesPacket (t.withWords q 5 ps) [p[10], p[11]] p := by
  refine ⟨hps, rfl, ?_⟩
  obtain ⟨hlow, hhigh⟩ := ofNat_leValue_pair p[10] p[11]
  rw [hlow, hhigh]
  calc p = (q.setIfInBounds 10 p[10]).setIfInBounds 11 p[11] :=
        (hq.setIfInBounds (by omega) (by omega)).eq.symm
    _ = (q.set 10 p[10]).set 11 p[11] :=
        Vector.ext fun i hi => by simp only [Vector.getElem_setIfInBounds, Vector.getElem_set]

/-- The state after PACKET (R154). -/
def packetStarted (s : State) : State :=
  { s with
    status := withBit (withBit s.status 0 false) 3 true
    intreason := withBit (withBit s.intreason 0 true) 1 false
    pcnt := 0, pstate := .awaitingPacket }

/-- The command write of PACKET, as a step. -/
theorem step_packetStarted {s : State} {cmd : List Byte} {ps : List Access} (hw : s.cfg.Wf)
    (ho : s.CommandOpen) (hl : s.cfg.lenOk cmd.length = true)
    (hcmd : leValue cmd % 256 = s.cfg.cmdPacket.toNat)
    (hp : s.pending = .write (s.cfg.addrOf .statusCommand) cmd :: ps) :
    step s = .next ((packetStarted s).withWords s.pkt 0 ps) := by
  rw [step_reg (r := .statusCommand) hw hp ⟨rfl, hl⟩]
  have hrun := execWStatusCommand_code (s := { s with pending := ps }) (op := .packet) hw ho hcmd.symm
  exact hrun.trans (execPacket_eq (s := { s with pending := ps }) ho)

/-- Settles O13: PACKET leaves a state without words, five data writes bring one more word of the
packet each, and the sixth is the packet command. -/
theorem sendPacketRunsPacket : Obligations.SendPacketRunsPacket := by
  unfold Obligations.SendPacketRunsPacket
  intro s cmd p op rest hw ho hlc hl2 hcmd hop hp
  refine ⟨packetStarted s, execPacket_eq ho, ?_⟩
  have hq0 : SamePrefix (2 * 0) p s.pkt := fun i hi h => by omega
  obtain ⟨q1, e1, hq1⟩ := step_withWords (t := packetStarted s) (by omega) hw hl2 rfl hq0 _
  obtain ⟨q2, e2, hq2⟩ := step_withWords (t := packetStarted s) (by omega) hw hl2 rfl hq1 _
  obtain ⟨q3, e3, hq3⟩ := step_withWords (t := packetStarted s) (by omega) hw hl2 rfl hq2 _
  obtain ⟨q4, e4, hq4⟩ := step_withWords (t := packetStarted s) (by omega) hw hl2 rfl hq3 _
  obtain ⟨q5, e5, hq5⟩ := step_withWords (t := packetStarted s) (by omega) hw hl2 rfl hq4 _
  have hc := completesPacket_withWords (t := packetStarted s) rfl hq5 rest
  have hlast : step ((packetStarted s).withWords q5 5
      (.write (s.cfg.addrOf .data) [p[10], p[11]] :: rest)) =
      execWData [p[10], p[11]] ((packetStarted s).withWords q5 5 rest) :=
    step_reg (a := .write (s.cfg.addrOf .data) [p[10], p[11]]) (r := .data) hw rfl ⟨rfl, hl2⟩
  exact (core_run_succ (step_packetStarted hw ho hlc hcmd hp) 6).trans <|
    (core_run_succ e1 5).trans <| (core_run_succ e2 4).trans <| (core_run_succ e3 3).trans <|
    (core_run_succ e4 2).trans <| (core_run_succ e5 1).trans <| (core_run_one _).trans <|
    hlast.trans (execWData_eq_exec_pktInstr hw hc hop)

/-! ### Commands without data (R175, R182) -/

/-- What the updates of a command without data say of the flags. -/
theorem noDataCompleted_of {s t : State} {c : Bool}
    (h1 : t.status = withBit (withBit (withBit (withBit s.status 7 false) 3 false) 6 true) 0 c)
    (h2 : t.intreason = withBit (withBit s.intreason 0 true) 1 true)
    (h3 : t.irq = (s.irq || (s.cfg.nodataPktIrq && !s.nIEN))) :
    NoDataCompleted s t ∧ t.check = c := by
  refine ⟨⟨?_, ?_, ?_, ?_, ?_, ?_, ?_, h3⟩, ?_⟩
  all_goals simp only [State.cod, State.io, State.bsy, State.drq, State.drdy, State.check, h1, h2,
    withBit_getLsbD]
  all_goals simp +contextual

/-- The low half of ERROR under a new sense key. -/
theorem setSense_error_getLsbD (s : State) (v : BitVec 4) (j : Nat) (hj : j < 4) :
    (v ++ s.error.extractLsb' 0 4 : Byte).getLsbD j = s.error.getLsbD j := by
  rw [BitVec.getLsbD_append, if_pos hj, BitVec.getLsbD_extractLsb']; simp [hj]

/-- Settles O28: TEST_UNIT_READY is one update, by whether a medium is present. -/
theorem testUnitReadyEffect : Obligations.TestUnitReadyEffect := by
  unfold Obligations.TestUnitReadyEffect
  intro s
  refine ⟨_, execTestUnitReady_eq s, rfl, (noDataCompleted_of rfl rfl rfl).1, ?_⟩
  cases hm : s.cfg.mount.present with
  | true => exact ⟨(noDataCompleted_of (c := false) rfl rfl rfl).2, rfl, rfl⟩
  | false =>
    exact ⟨(noDataCompleted_of (c := true) rfl rfl rfl).2, s.setSense_sense s.cfg.senseNotReady,
      setSense_error_getLsbD s _, rfl⟩

/-- Settles O29: START_DISK is one update. -/
theorem startDiskEffect : Obligations.StartDiskEffect := by
  unfold Obligations.StartDiskEffect
  exact fun s => ⟨_, execStartDisk_eq s, rfl, noDataCompleted_of rfl rfl rfl⟩

/-! ### SET_MODE (R177) -/

theorem execSetMode_dma {s : State} (h : s.featDma = true) :
    execSetMode s = .fault (.unimplementedFeature .setModeDma) := if_pos h

theorem execSetMode_pio {s : State} (h : s.featDma = false) :
    execSetMode s = .next { ((s.setReason false true).setDrq true) with
      pcnt := s.bytecnt.toNat, pstate := .awaitingModeData } := if_neg (by simp [h])

/-- Settles O31: the two branches of SET_MODE; its flags are those of announced data. -/
theorem setModeEffect : Obligations.SetModeEffect := by
  unfold Obligations.SetModeEffect
  refine fun s => ⟨execSetMode_dma, fun h => ⟨_, execSetMode_pio h, rfl, ?_⟩⟩
  obtain ⟨hdrq, hstatus, hio, hcod, hreason, -⟩ :=
    dataAnnounced_of (s := s) (t := s.announceDataIn) (by rw [State.announceDataIn_eq])
      (by rw [State.announceDataIn_eq]) (by rw [State.announceDataIn_eq])
  rw [State.announceDataIn_eq] at hdrq hstatus hio hcod hreason
  exact ⟨hdrq, hstatus, hio, hcod, hreason⟩

/-! ### Commands that queue a response (R176, R179, R180, R183) -/

/-- A response that may be queued, as the one update that it is. -/
theorem respond_eq_responded {s : State} {n : Half} {b : List Byte}
    (h : b = [] ∨ s.cfg.queueMaxNodes ≠ some 0) :
    respond { s with pstate := .normal, bytecnt := n } b = .next (responded s n b) := by
  refine (respond_eq (s := { s with pstate := .normal, bytecnt := n }) h).trans ?_
  rw [State.announceDataIn_eq]; rfl

theorem dataAnnounced_responded (s : State) (n : Half) (b : List Byte) :
    DataAnnounced s (responded s n b) := dataAnnounced_of rfl rfl rfl

theorem responseQueue_of_ne_nil {b : List Byte} (h : b ≠ []) : responseQueue b = [⟨0, b⟩] :=
  if_neg h

theorem ne_zero_iff_toNat_ne_zero (v : Byte) : v ≠ 0#8 ↔ v.toNat ≠ 0 := by
  rw [ne_eq, ← BitVec.toNat_inj]; rfl

/-- The bytes of REQ_MODE, by their places in the block (R103). -/
theorem blockRange_getElem? (block : List Byte) (first : Nat) {n j : Nat} (h : j < n) :
    (blockRange block first n)[j]? = block[first + j]? := by
  rw [blockRange, List.getElem?_take_of_lt h, List.getElem?_drop]

/-- Settles O30: by whether a length is given. -/
theorem reqModeEffect : Obligations.ReqModeEffect := by
  unfold Obligations.ReqModeEffect
  intro s start len hw hmax
  have hlen : len = 0#8 ↔ len.toNat = 0 := by rw [← BitVec.toNat_inj]; rfl
  have hresp : modeResponse s.cfg start len = [] ∨ s.cfg.queueMaxNodes ≠ some 0 :=
    hmax.imp_left fun h => if_pos (hlen.2 h)
  have he : exec (.reqMode start len) s = _ :=
    (execReqMode_eq start len s).trans (respond_eq_responded hresp)
  refine ⟨_, he, rfl, dataAnnounced_responded s _ _, ?_⟩
  by_cases h0 : len.toNat = 0
  · simp [responded, modeResponse, responseQueue, hlen, h0]
  · have hb := blockRange_length hw (start := start) (mt hlen.1 h0)
    have hcount : modeCount start len =
        min (start.toNat + len.toNat - 1) 31 + 1 - min start.toNat 31 := by
      simp only [modeCount, modeLast, modeFirst]; omega
    have hbounds := modeCount_bounds start len
    simp only [responded, modeResponse, hlen, h0, if_false]
    refine ⟨_, responseQueue_of_ne_nil ?nonempty, ?length, ?bytecnt, fun j hj => ?bytes⟩
    case nonempty => exact List.ne_nil_of_length_pos (by omega)
    case length => rw [hb, hcount]
    case bytecnt => rw [BitVec.toNat_ofNat, Nat.mod_eq_of_lt (by omega), hcount]
    case bytes => exact blockRange_getElem? _ _ (hb ▸ hj)

theorem sense_toNat (s : State) : s.sense.toNat = s.error.toNat / 16 := by
  have := s.error.isLt
  simp only [State.sense, BitVec.extractLsb'_toNat, Nat.shiftRight_eq_div_pow]; omega

/-- The response of REQ_ERROR as numbers (R104). -/
theorem errorResponse_toNat (s : State) :
    (errorResponse s.sense s.asc).map BitVec.toNat =
      [0xF0, 0, s.error.toNat / 16, 0, 0, 0, 0, 0, s.asc.toNat, 0] := by
  have hs : (s.sense.setWidth 8).toNat = s.error.toNat / 16 := by
    rw [BitVec.toNat_setWidth_of_le (by omega), sense_toNat]
  simp [errorResponse, hs]

/-- Settles O32: by whether a length is given. -/
theorem reqErrorEffect : Obligations.ReqErrorEffect := by
  unfold Obligations.ReqErrorEffect
  intro s len hmax
  have hresp : (errorResponse s.sense s.asc).take (min len.toNat errRespLen) = [] ∨
      s.cfg.queueMaxNodes ≠ some 0 := hmax.imp_left fun h => by simp [h]
  have he : exec (.reqError len) s = _ := respond_eq_responded (n := s.bytecnt) hresp
  have hlen : ((errorResponse s.sense s.asc).take (min len.toNat errRespLen)).length =
      min len.toNat 10 := by simp [errorResponse]
  refine ⟨_, he, rfl, dataAnnounced_responded s _ _, ?_⟩
  by_cases h0 : len.toNat = 0
  · simp [responded, responseQueue, h0]
  · simp only [h0, if_false]
    refine ⟨_, responseQueue_of_ne_nil (List.ne_nil_of_length_pos (by omega)), hlen,
      fun j hj => ?_⟩
    rw [List.getElem?_take_of_lt (hlen ▸ hj), ← List.getElem?_map, errorResponse_toNat]

/-- Settles O33: by whether any byte is asked for. -/
theorem readTocEffect : Obligations.ReadTocEffect := by
  unfold Obligations.ReadTocEffect
  intro s session alloc hw hmax
  have hresp : (mountToc s.cfg.mount session).take (min alloc.toNat s.cfg.tocMax) = [] ∨
      s.cfg.queueMaxNodes ≠ some 0 := hmax.imp_left fun h => by simp [h]
  have he : exec (.readToc session alloc) s = _ := respond_eq_responded (n := s.bytecnt) hresp
  have hlen : ((mountToc s.cfg.mount session).take (min alloc.toNat s.cfg.tocMax)).length =
      min alloc.toNat s.cfg.tocMax := by rw [List.length_take, mountToc_length hw]; omega
  refine ⟨_, he, rfl, dataAnnounced_responded s _ _, ?_⟩
  have htoc : mountToc s.cfg.mount session =
      if session.toNat = 0 then s.cfg.mount.toc0 else s.cfg.mount.toc1 := by
    unfold mountToc; simp only [← BitVec.toNat_inj]; rfl
  simp only [← htoc]
  by_cases h0 : min alloc.toNat s.cfg.tocMax = 0
  · simp [responded, responseQueue, h0]
  · rw [if_neg h0]
    exact ⟨_, responseQueue_of_ne_nil (List.ne_nil_of_length_pos (by omega)), hlen,
      fun j hj => List.getElem?_take_of_lt hj⟩

/-- Settles O37: the response of VENDOR_71 is never empty. -/
theorem vendor71Effect : Obligations.Vendor71Effect := by
  unfold Obligations.Vendor71Effect
  intro s hw hmax
  have he : exec .vendor71 s = _ := respond_eq_responded (b := s.cfg.pkt71Blob) (.inr hmax)
  have hlen := hw.pkt71
  have hcap := hw.nodeCap.2
  refine ⟨_, he, ?frame, ?bytecnt, dataAnnounced_responded s _ _⟩
  case frame =>
    rw [← responseQueue_of_ne_nil (List.ne_nil_of_length_pos (by omega))]; rfl
  case bytecnt =>
    show (BitVec.ofNat 16 s.cfg.pkt71Blob.length).toNat = _
    rw [BitVec.toNat_ofNat, Nat.mod_eq_of_lt (by omega)]

/-! ### READ (R181) -/

theorem execRead_selection {sel : BitVec 4} (h : sel ≠ 2#4) (ptype : BitVec 1)
    (fad cnt : BitVec 24) (s : State) :
    execRead sel ptype fad cnt s = .fault (.unimplementedFeature .readSelection) := if_pos h

theorem execRead_addressing {ptype : BitVec 1} (h : ptype ≠ 0#1) (fad cnt : BitVec 24) (s : State) :
    execRead 2#4 ptype fad cnt s = .fault (.unimplementedFeature .readAddressing) := if_pos h

theorem execRead_of_all {s : State} {fad cnt : BitVec 24} {q : List Node}
    (h : readSectors s.cfg cnt.toNat fad.toNat [] = .all q) :
    execRead 2#4 0#1 fad cnt s = .next { s with
      q := q, pstate := .normal
      status := if s.featDma then s.status else withBit s.status 3 true
      intreason := if s.featDma then s.intreason else withBit (withBit s.intreason 0 false) 1 true
      irq := s.irq || (!s.featDma && !s.nIEN) } := by
  cases hd : s.featDma <;>
    simp [execRead, h, hd, State.announceDataIn_eq, State.packetDone, State.nIEN]

theorem execRead_of_failed {s : State} {fad cnt : BitVec 24} {q : List Node}
    (h : readSectors s.cfg cnt.toNat fad.toNat [] = .failed q) :
    execRead 2#4 0#1 fad cnt s = .next (({ s.packetDone with q := q }.setSense
      s.cfg.senseIllegalRequest).setCheck true) := by
  simp [execRead, h]

theorem execRead_of_exhausted {s : State} {fad cnt : BitVec 24}
    (h : readSectors s.cfg cnt.toNat fad.toNat [] = .exhausted) :
    execRead 2#4 0#1 fad cnt s = .fault .allocationFailure := by
  simp [execRead, h]

/-- Settles O34: the loop queues every sector; the data is announced by FEATURES.DMA. -/
theorem readAllSectors : Obligations.ReadAllSectors := by
  unfold Obligations.ReadAllSectors
  intro s exp fad cnt sectors hlen hread hmax
  have hall := readSectors_all hread (hlen ▸ hmax)
  rw [hlen] at hall
  refine ⟨_, execRead_of_all hall, rfl, ?_⟩
  cases hd : s.featDma with
  | true => simp
  | false => exact dataAnnounced_of (by simp) (by simp) (by simp)

/-- Settles O35: the loop queues the sectors before the one that fails. -/
theorem readSectorFailure : Obligations.ReadSectorFailure := by
  unfold Obligations.ReadSectorFailure
  intro s exp fad cnt sectors hlen hread hfail hmax
  have he : exec (.read 2#4 exp 0#1 fad cnt) s = _ :=
    execRead_of_failed (readSectors_failed hlen hread hfail hmax)
  refine ⟨_, he, rfl, ?sense, setSense_error_getLsbD s _, ?check, fun j h0 => ?status⟩
  case sense => exact s.setSense_sense s.cfg.senseIllegalRequest
  case check => simp only [State.check, State.setCheck_status, withBit_getLsbD]; simp
  case status => simp [withBit_getLsbD, h0]

/-- Settles O36: the two checks of READ in their order. -/
theorem readUnsupportedFaults : Obligations.ReadUnsupportedFaults := by
  unfold Obligations.ReadUnsupportedFaults
  refine fun s sel exp ptype fad cnt => ⟨fun hsel => ?selection, fun hsel hptype => ?addressing⟩
  case selection => exact execRead_selection (fun h => hsel (by simp [h])) ptype fad cnt s
  case addressing =>
    obtain rfl : sel = 2#4 := BitVec.eq_of_toNat_eq hsel
    exact execRead_addressing (fun h => hptype (by simp [h])) fad cnt s

/-- Settles O38: READ runs into the bound at its sector `m`, and at the bound 0 every response that
is not empty does. -/
theorem allocationFailureAtBound : Obligations.AllocationFailureAtBound := by
  unfold Obligations.AllocationFailureAtBound
  refine fun s m hw hmax => ⟨fun exp fad cnt sectors hlen hcnt hread => ?read, ?_⟩
  case read =>
    have htake : (sectors.take m).length = m := by rw [List.length_take]; omega
    refine execRead_of_exhausted (readSectors_exhausted (bs := sectors.take m) (b := sectors[m])
      (by omega) (fun j b hj => hread j b ?_) ?_ (by rw [htake]; exact hmax))
    · rw [List.getElem?_take] at hj
      split at hj
      · exact hj
      · cases hj
    · rw [htake]; exact hread m _ (List.getElem?_eq_getElem _)
  rintro rfl
  refine ⟨?vendor, fun ho => ?identify, fun start len hl => ?mode, fun len hl => ?error,
    fun session alloc ha => ?toc⟩
  case vendor =>
    exact respond_exhausted (List.ne_nil_of_length_pos hw.pkt71.1) hmax
  case identify =>
    rcases execIdentify_cases ho with ⟨-, h0⟩ | ⟨h, -⟩
    · exact absurd hmax h0
    · exact h
  case mode =>
    have hl' := (ne_zero_iff_toNat_ne_zero len).2 hl
    have hb := blockRange_length hw (start := start) hl'
    have hpos := (modeCount_bounds start len).1
    refine (execReqMode_eq start len s).trans (respond_exhausted ?_ hmax)
    rw [modeResponse, if_neg hl']
    exact List.ne_nil_of_length_pos (by omega)
  case error =>
    refine respond_exhausted (List.ne_nil_of_length_pos ?_) hmax
    simp [errorResponse]; omega
  case toc =>
    refine respond_exhausted (List.ne_nil_of_length_pos ?_) hmax
    rw [List.length_take, mountToc_length hw]; omega

end Sys2Proof.Machine
end

section
/-!
The two drains and reset: the data read (spec/43_pio_data_read.md R210 to R214; O39, O40, O41), the
trigger and the DMA drain (spec/44_dma.md R241 to R247; O42, O43, O44), and the state after reset
(spec/10_state.md R41; O55, O56).
-/

namespace Sys2Proof.Machine

/-! ### The data read -/

/-- A data read of `len` bytes takes bytes and leaves none, of the bytes `b` queued (R212). -/
abbrev EmptiesQueue (len : Nat) (b : List Byte) : Prop := 0 < len ∧ b ≠ [] ∧ b.length ≤ len

/-- The condition of the handler is that of R212. -/
theorem consumeBytes_empties_iff {cap : Nat} {q : List Node} (h : QueueWf cap q) (len : Nat) :
    ((consumeBytes len q).1 ≠ [] ∧ queueEmpty (consumeBytes len q).2 = true) ↔
      EmptiesQueue len (queueData q) := by
  obtain ⟨htake, hdrop, -, -⟩ := consumeBytes_spec len h
  rw [queueEmpty_iff, htake, hdrop, ne_eq, List.take_eq_nil_iff, List.drop_eq_nil_iff, not_or,
    and_assoc]
  exact and_congr_left' Nat.pos_iff_ne_zero.symm

/-- The reply to a data read: the bytes queued, then zeros (R211). -/
theorem zeroFill_take (len : Nat) (b : List Byte) :
    zeroFill len (b.take len) = b.take len ++ List.replicate (len - b.length) 0x00#8 := by
  rw [zeroFill, List.length_take, show len - min len b.length = len - b.length by omega]

/-- The data read of a well-formed queue, as one update. -/
theorem execRData_of_wf {cap : Nat} {s : State} (h : QueueWf cap s.q) (len : Nat) :
    execRData len s = .next { s with
      q := (consumeBytes len s.q).2
      readData := zeroFill len ((queueData s.q).take len)
      status := if EmptiesQueue len (queueData s.q)
        then withBit (withBit (withBit s.status 3 false) 7 false) 6 true else s.status
      irq := if EmptiesQueue len (queueData s.q) then s.irq || !s.nIEN else s.irq } := by
  have hiff := consumeBytes_empties_iff h len
  rw [execRData_eq, ← (consumeBytes_spec len h).1]
  by_cases hc : EmptiesQueue len (queueData s.q)
  · rw [if_pos (hiff.2 hc), if_pos hc, if_pos hc]
  · rw [if_neg (mt hiff.1 hc), if_neg hc, if_neg hc]

/-- Settles O39: the one update of the read, its queue by `consumeBytes_spec`. -/
theorem dataReadDrainsQueue : Obligations.DataReadDrainsQueue := by
  unfold Obligations.DataReadDrainsQueue
  intro s len h
  obtain ⟨-, hdrop, hwf, -⟩ := consumeBytes_spec len h
  refine ⟨_, execRData_of_wf h len, rfl, zeroFill_take len _, hdrop, hwf, ?_⟩
  by_cases hc : EmptiesQueue len (queueData s.q)
  · rw [if_pos hc]
    refine ⟨?queue, transferCompleted_of (if_pos hc) (if_pos hc)⟩
    rw [← hwf.queueData_eq_nil, hdrop, List.drop_eq_nil_iff]
    exact hc.2.2
  · rw [if_neg hc]
    exact ⟨if_neg hc, if_neg hc⟩

theorem consumeBytes_nil (len : Nat) : consumeBytes len [] = ([], []) := by
  cases len <;> rfl

/-- Settles O40: nothing is consumed from an empty queue, and no byte taken means no completion. -/
theorem emptyQueueRead : Obligations.EmptyQueueRead := by
  unfold Obligations.EmptyQueueRead
  intro s len h
  show execRData len s = _
  rw [execRData_eq, h]
  simp only [consumeBytes_nil, ne_eq, not_true_eq_false, false_and, if_false, zeroFill,
    List.nil_append, List.length_nil, Nat.sub_zero]

/-- The reply to a read of `m + n` bytes is the replies to reads of `m` and `n` (R214). -/
theorem zeroFill_take_add (m n : Nat) (b : List Byte) :
    zeroFill (m + n) (b.take (m + n)) =
      zeroFill m (b.take m) ++ zeroFill n ((b.drop m).take n) := by
  simp only [zeroFill_take, List.length_drop]
  by_cases h : b.length ≤ m
  · rw [List.take_of_length_le h, List.take_of_length_le (by omega), List.drop_eq_nil_of_le h,
      List.take_nil, List.nil_append, List.append_assoc, List.replicate_append_replicate]
    congr 2; omega
  · rw [List.take_add, show m - b.length = 0 by omega,
      show m + n - b.length = n - (b.length - m) by omega, List.replicate_zero, List.append_nil,
      List.append_assoc]

/-- Where the first of two reads does not empty the queue, the second does if one read of both lengths
does. -/
theorem emptiesQueue_drop_iff {m n : Nat} {b : List Byte} (h : ¬ EmptiesQueue m b) :
    EmptiesQueue n (b.drop m) ↔ EmptiesQueue (m + n) b := by
  simp only [EmptiesQueue, ne_eq, ← List.length_eq_zero_iff, List.length_drop]
    at h ⊢
  omega

/-- Where the first of two reads empties the queue, so does one read of both lengths, and the second
takes nothing. -/
theorem EmptiesQueue.add {m n : Nat} {b : List Byte} (h : EmptiesQueue m b) :
    EmptiesQueue (m + n) b ∧ ¬ EmptiesQueue n (b.drop m) := by
  obtain ⟨hpos, hne, hle⟩ := h
  exact ⟨⟨by omega, hne, by omega⟩, fun h => h.2.1 (List.drop_eq_nil_of_le hle)⟩

/-- Settles O41: the second read continues where the first stopped, and the transfer completes in
exactly one of the two if it does in the read of both lengths. -/
theorem mixedWidthReads : Obligations.MixedWidthReads := by
  unfold Obligations.MixedWidthReads
  intro s m n h
  obtain ⟨-, hdrop, hwf, -⟩ := consumeBytes_spec m h
  refine ⟨_, _, _, execRData_of_wf h m, execRData_of_wf hwf n, execRData_of_wf h (m + n), ?bytes,
    ?state⟩
  case bytes => simp only [hdrop]; exact zeroFill_take_add m n _
  case state =>
    simp only [hdrop, consumeBytes_add]
    by_cases hm : EmptiesQueue m (queueData s.q)
    · obtain ⟨hsum, hn⟩ := hm.add (n := n)
      simp only [if_pos hm, if_pos hsum, if_neg hn]
    · simp only [if_neg hm, emptiesQueue_drop_iff hm]; rfl

/-! ### The trigger and the drain -/

theorem wordOf_ne_zero {d : List Byte} (h : leValue d % 2 ^ 32 ≠ 0) : wordOf d ≠ 0#32 :=
  mt (wordOf_eq_zero_iff d).1 h

theorem drainTotal_eq (s : State) : drainTotal s = min s.gdlen.toNat (queueData s.q).length := by
  rw [drainTotal, queueBytes_eq]

/-- Destination `k` of the drain (R244). -/
theorem gdstar_add_toNat (a : Word) (k : Nat) :
    (a + BitVec.ofNat 32 k).toNat = (a.toNat + k) % 2 ^ 32 := by
  rw [BitVec.toNat_add, BitVec.toNat_ofNat, Nat.add_mod_mod]

/-- Settles O42: the run of writes of the drain, read back at an address it goes to and at any
other. -/
theorem drainWritesWindow : Obligations.DrainWritesWindow := by
  unfold Obligations.DrainWritesWindow
  intro s d hq hm hd hen hdir
  obtain ⟨htake, hdrop, -, -⟩ := consumeBytes_spec (drainTotal s) hq
  have hlen : ((queueData s.q).take (drainTotal s)).length = drainTotal s := by
    rw [List.length_take, drainTotal_eq]; omega
  have hlt := (drainTotal_le s).2
  refine ⟨_, execWGdst_drain (wordOf_ne_zero hd) hen hdir, ?_⟩
  simp only [drained, htake, ← drainTotal_eq, ← gdstar_add_toNat]
  refine ⟨fun k hk hopen => ?inside, fun a ha => ?other, hdrop⟩
  case inside =>
    rw [Memory.read_writeRun_at _ _ _ hm (by omega) k (by omega) ((inWindow_iff _ _).2 hopen),
      List.getElem_take, List.getElem?_eq_getElem]
  case other =>
    exact Memory.read_writeRun_other _ _ _ hm a fun k hk hin heq =>
      ha k (by omega) heq (heq ▸ (inWindow_iff _ _).1 hin)

/-- Settles O43: the one update of a drain. -/
theorem drainCompletes : Obligations.DrainCompletes := by
  unfold Obligations.DrainCompletes
  intro s d hd hen hdir
  refine ⟨_, execWGdst_drain (wordOf_ne_zero hd) hen hdir, rfl, ?count, transferCompleted_of rfl rfl,
    rfl⟩
  case count =>
    rw [← drainTotal_eq]
    exact Nat.mod_eq_of_lt (drainTotal_le s).2

theorem execWGdst_zero {d : List Byte} (h : leValue d % 2 ^ 32 = 0) (s : State) :
    execWGdst d s = .next s := if_pos ((wordOf_eq_zero_iff d).2 h)

theorem execWGdst_disabled {d : List Byte} {s : State} (h : leValue d % 2 ^ 32 ≠ 0)
    (hen : s.dmaEnabled = false) : execWGdst d s = .next { s with gdst := 0#32 } := by
  simp only [execWGdst, wordOf_ne_zero h, hen, if_false, Bool.false_eq_true]

theorem execWGdst_direction {d : List Byte} {s : State} (h : leValue d % 2 ^ 32 ≠ 0)
    (hen : s.dmaEnabled = true) (hdir : s.dmaToMemory = false) :
    execWGdst d s = .fault (.unimplementedFeature .dmaDirection) := by
  simp only [execWGdst, wordOf_ne_zero h, hen, hdir, if_false, if_true, Bool.false_eq_true]

/-- Settles O44: the branches of the trigger other than the drain. -/
theorem triggerWithoutDrain : Obligations.TriggerWithoutDrain := by
  unfold Obligations.TriggerWithoutDrain
  exact fun s d => ⟨fun h => execWGdst_zero h s, execWGdst_disabled, execWGdst_direction⟩

/-! ### Reset -/

/-- The defaults of R9 make sense, whatever the contents it leaves free are. -/
theorem default_wf : Config.default.Wf where
  addrDistinct := by decide
  addrAligned := by intro r; cases r <;> decide
  lengths := by decide
  ataDistinct := by decide
  pktDistinct := by decide
  ident := by simp [Config.default, Config.openIdentBlock]
  mode := by simp [Config.default, Config.openModeBlock]
  pkt71 := by
    have h := Nat.mod_lt Config.openPkt71Len (show 0 < 2352 by omega)
    simp only [Config.default, Config.openPkt71Blob, List.length_map, List.length_range]
    omega
  nodeCap := by decide
  sector := by decide
  toc := by decide
  gdaproReset := by decide
  senseNone := by decide
  mount := by
    refine ⟨fun p hp => ?_, ?_, ?_⟩
    · obtain ⟨fad, -, rfl⟩ := List.mem_map.1 hp
      simp [Config.default]
    · simp [Config.default, Config.openMount]
    · simp [Config.default, Config.openMount]

/-- Settles O55: the fields of the record. -/
theorem resetState : Obligations.ResetState := by
  unfold Obligations.ResetState
  exact ⟨rfl, rfl, fun i hi => Vector.getElem_replicate hi, rfl, rfl, rfl, rfl, rfl, rfl, rfl, rfl,
    rfl, rfl, rfl, rfl, rfl, rfl, rfl, rfl, rfl, rfl, rfl, rfl, rfl, rfl⟩

/-- Settles O56: the parameters make sense, and every other clause is about a field that is empty or a
number. -/
theorem invariantAtReset : Obligations.InvariantAtReset := by
  unfold Obligations.InvariantAtReset
  exact {
    cfg := default_wf
    status := by decide
    error := by decide
    intreason := by decide
    gdst := rfl
    gdapro := by decide
    queue := QueueWf.nil _
    queueMax := fun m h => by cases h
    packet := fun h => by cases h
    modeData := fun h => by cases h
    gmem := ⟨List.Pairwise.nil, fun x hx => by cases hx⟩
    dmaEnd := fun _ => rfl }

end Sys2Proof.Machine
end

section
/-!
What a step can do, once (spec/00_scope.md R4): `StepEffect` has one constructor per kind of effect,
`stepEffect` says that every step that goes on has one, and the rules about the whole machine are case
analyses of it: the interrupt (spec/60_exceptions.md R267, R268; O45, O46), the window and guest memory
(spec/20_memory.md R64; O47, O48), the protocol state (spec/10_state.md R22; O49), reads (R63; O50),
the error state (R264; O51) and the configuration (R39; O52).
-/

namespace Sys2Proof.Machine

/-- What a step from `s` to `t` does. -/
inductive StepEffect (s t : State) : Prop
  /-- no access, a rejected one, or one that changes nothing but the reply, TMODE and registers that
  only a register write changes -/
  | quiet (ht : t = { s with
      pending := t.pending, readData := t.readData, tmode := t.tmode, devctrl := t.devctrl,
      features := t.features, sectcnt := t.sectcnt, sectnum := t.sectnum, bytecnt := t.bytecnt,
      drvsel := t.drvsel, gdstar := t.gdstar, gdlen := t.gdlen, gddir := t.gddir, gden := t.gden })
  /-- a read of STATUS_COMMAND (R116) -/
  | statusRead (n : Nat) (rest : List Access)
      (hp : s.pending = .read (s.cfg.addrOf .statusCommand) n :: rest)
      (ht : t = { s with pending := rest, readData := t.readData, irq := false })
  /-- a read of DATA (R210) -/
  | dataRead (n : Nat) (rest : List Access)
      (hp : s.pending = .read (s.cfg.addrOf .data) n :: rest)
      (ht : execRData n { s with pending := rest } = .next t)
  /-- the command PACKET (R154) -/
  | packetCommand (d : List Byte) (rest : List Access)
      (hp : s.pending = .write (s.cfg.addrOf .statusCommand) d :: rest)
      (hd : leValue d % 256 = s.cfg.cmdPacket.toNat)
      (ht : t = { packetStarted s with pending := rest })
  /-- the command IDENTIFY (R155) -/
  | identify (d : List Byte) (rest : List Access)
      (hp : s.pending = .write (s.cfg.addrOf .statusCommand) d :: rest)
      (hd : leValue d % 256 = s.cfg.cmdIdentify.toNat) (hmax : s.cfg.queueMaxNodes ≠ some 0)
      (ht : t = { s with
        pending := rest, status := withBit (withBit s.status 7 false) 3 true
        q := [⟨0, s.cfg.identBlock⟩], irq := s.irq || !s.nIEN, pstate := .normal })
  /-- a data write before the last of a packet (R173) -/
  | packetWord (d : List Byte) (rest : List Access) (hs : s.pstate = .awaitingPacket)
      (hc : s.pcnt ≠ 10) (ht : t = appendPacketWord (halfOf d) { s with pending := rest })
  /-- the data write that completes a packet (R174) -/
  | packet (d : List Byte) (rest : List Access) (p : Packet) (op : PktOp)
      (hp : s.pending = .write (s.cfg.addrOf .data) d :: rest) (hc : CompletesPacket s d p)
      (hop : s.cfg.pktCode op = p[0])
      (ht : runPacket op p { s with pending := rest, pkt := p, pcnt := 12 } = .next t)
  /-- mode data before its end (R178) -/
  | modeData (d : List Byte) (rest : List Access) (hl : d.length ∈ s.cfg.accessLengths)
      (hs : s.pstate = .awaitingModeData) (hpos : 0 < s.pcnt - d.length)
      (ht : t = { s with pending := rest, pcnt := s.pcnt - d.length })
  /-- the end of the mode data (R178) -/
  | modeDataEnd (d : List Byte) (rest : List Access) (hl : d.length ∈ s.cfg.accessLengths)
      (hp : s.pending = .write (s.cfg.addrOf .data) d :: rest)
      (hs : s.pstate = .awaitingModeData) (hle : s.pcnt - d.length ≤ 0)
      (ht : t = { s with
        pending := rest, pcnt := s.pcnt - d.length, status := withBit s.status 3 false
        pstate := .normal, irq := s.irq || !s.nIEN })
  /-- a write of GDAPRO with the security code (R231) -/
  | protect (d : List Byte) (rest : List Access)
      (hp : s.pending = .write (s.cfg.addrOf .gdapro) d :: rest)
      (hd : leValue d / 65536 % 65536 = s.cfg.gdaproCode.toNat)
      (ht : t = { s with pending := rest, gdapro := wordOf d &&& gdaproMask })
  /-- a trigger that clears itself with the drain disabled (R241) -/
  | triggerOff (rest : List Access) (ht : t = { s with pending := rest, gdst := 0#32 })
  /-- a drain (R244) -/
  | drain (d : List Byte) (rest : List Access)
      (hp : s.pending = .write (s.cfg.addrOf .gdst) d :: rest) (hd : leValue d % 2 ^ 32 ≠ 0)
      (hen : s.dmaEnabled = true) (hdir : s.dmaToMemory = true)
      (ht : t = drained { s with pending := rest })

/-- The effect of a command write. -/
theorem stepEffect_of_commandWrite {s t : State} {d : List Byte} {rest : List Access}
    (hp : s.pending = .write (s.cfg.addrOf .statusCommand) d :: rest)
    (h : commandWrite (byteOf d) { s with pending := rest } = .next t) : StepEffect s t := by
  obtain ⟨-, op, hop, hrun⟩ := commandWrite_next h
  have hd : leValue d % 256 = (s.cfg.ataCode op).toNat := ((byteOf_eq_iff d _).1 hop.symm).symm
  rcases runCommand_next hrun with ⟨-, rfl⟩ | ⟨rfl, rfl⟩ | ⟨rfl, hmax, rfl⟩ | ⟨-, rfl⟩
  · exact .quiet rfl
  · exact .packetCommand d rest hp hd rfl
  · exact .identify d rest hp hd hmax rfl
  · exact .quiet rfl

/-- The effect of a data write. -/
theorem stepEffect_of_execWData {s t : State} {d : List Byte} {rest : List Access}
    (hp : s.pending = .write (s.cfg.addrOf .data) d :: rest)
    (hl : d.length ∈ s.cfg.accessLengths)
    (h : execWData d { s with pending := rest } = .next t) : StepEffect s t := by
  rcases execWData_next h with ⟨-, rfl⟩ | ⟨hs, hc, rfl⟩ | ⟨p, op, hc, hop, hrun⟩ | ⟨hs, hpos, rfl⟩ |
    ⟨hs, hle, rfl⟩
  · exact .quiet rfl
  · exact .packetWord d rest hs hc rfl
  · exact .packet d rest p op hp hc hop hrun
  · exact .modeData d rest hl hs hpos rfl
  · exact .modeDataEnd d rest hl hp hs hle rfl

/-- Every step that goes on has an effect. -/
theorem stepEffect {s t : State} (h : step s = .next t) : StepEffect s t := by
  rcases step_cases h with ⟨-, rfl⟩ | ⟨a, rest, -, -, rfl⟩ | ⟨a, rest, r, hp, ⟨haddr, hlen⟩, -, he⟩
  · exact .quiet rfl
  · exact .quiet rfl
  have hl := (Config.lenOk_iff.1 hlen).1
  cases a with
  | read x n =>
    obtain rfl : x = s.cfg.addrOf r := haddr
    rcases exec_read_next he with ⟨-, -, ht⟩ | ⟨rfl, ht⟩ | ⟨rfl, ht⟩
    · exact .quiet (by rw [ht])
    · exact .statusRead n rest hp ht
    · exact .dataRead n rest hp ht
  | write x d =>
    obtain rfl : x = s.cfg.addrOf r := haddr
    rcases exec_write_next he with ⟨-, -, -, -, ht⟩ | ⟨rfl, ht⟩ | ⟨rfl, ht⟩ | ⟨rfl, rfl | ⟨hd, rfl⟩⟩ |
      ⟨rfl, ht⟩
    · exact .quiet (by rw [ht])
    · exact stepEffect_of_commandWrite hp ht
    · exact stepEffect_of_execWData hp hl ht
    · exact .quiet rfl
    · exact .protect d rest hp ((wordOf_code_iff d _).1 hd) rfl
    · rcases execWGdst_next ht with ⟨-, rfl⟩ | ⟨-, -, rfl⟩ | ⟨hd, hen, hdir, rfl⟩
      · exact .quiet rfl
      · exact .triggerOff rest rfl
      · exact .drain d rest hp (mt (wordOf_eq_zero_iff d).2 hd) hen hdir rfl

/-! ### The configuration, reads, the window, guest memory -/

/-- Settles O52: no effect is on the configuration. -/
theorem configurationFixed : Obligations.ConfigurationFixed := by
  unfold Obligations.ConfigurationFixed
  intro s t h
  cases stepEffect h with
  | quiet ht => rw [ht]
  | statusRead n rest hp ht => rw [ht]
  | dataRead n rest hp ht => rw [execRData_frame ht]
  | packet d rest p op hp hc hop ht => rw [runPacket_frame ht]
  | _ => subst_vars; rfl

/-- Settles O50: a read that goes on is rejected and dropped, or the read of another register. -/
theorem otherReadsAreIdempotent : Obligations.OtherReadsAreIdempotent := by
  unfold Obligations.OtherReadsAreIdempotent
  intro s a n rest t _ hp hdata hstatus h
  rcases step_cases h with ⟨hp', -⟩ | ⟨a', rest', hp', -, rfl⟩ | ⟨a', rest', r, hp', ⟨haddr, -⟩, -, he⟩ <;>
    rw [hp] at hp' <;> cases hp'
  · rfl
  · rcases exec_read_next he with ⟨-, -, ht⟩ | ⟨rfl, -⟩ | ⟨rfl, -⟩
    · rw [ht]
    · exact absurd haddr hstatus
    · exact absurd haddr hdata

/-- Settles O47: only the write of GDAPRO with the code has an effect on it. -/
theorem windowChangesOnlyWithCode : Obligations.WindowChangesOnlyWithCode := by
  unfold Obligations.WindowChangesOnlyWithCode
  intro s t h hne
  cases stepEffect h with
  | protect d rest hp hd ht => subst ht; exact ⟨d, rest, hp, hd, rfl⟩
  | quiet ht => exact absurd (by rw [ht]) hne
  | statusRead n rest hp ht => exact absurd (by rw [ht]) hne
  | dataRead n rest hp ht => exact absurd (by rw [execRData_frame ht]) hne
  | packet d rest p op hp hc hop ht => exact absurd (by rw [runPacket_frame ht]) hne
  | _ => subst_vars; exact absurd rfl hne

/-- Guest memory changes only by a drain. -/
theorem StepEffect.gmem_cases {s t : State} (h : StepEffect s t) :
    t.gmem = s.gmem ∨
    ∃ d rest, s.pending = .write (s.cfg.addrOf .gdst) d :: rest ∧ leValue d % 2 ^ 32 ≠ 0 ∧
      s.dmaEnabled = true ∧ ∃ bs, t.gmem = writeRun s.gdapro s.gdstar bs s.gmem := by
  cases h with
  | drain d rest hp hd hen hdir ht => subst ht; exact .inr ⟨d, rest, hp, hd, hen, _, rfl⟩
  | quiet ht => left; rw [ht]
  | statusRead n rest hp ht => left; rw [ht]
  | dataRead n rest hp ht => left; rw [execRData_frame ht]
  | packet d rest p op hp hc hop ht => left; rw [runPacket_frame ht]
  | _ => subst_vars; exact .inl rfl

/-- Settles O48: the run of writes of a drain keeps every address outside the window. -/
theorem memoryOutsideWindowKept : Obligations.MemoryOutsideWindowKept := by
  unfold Obligations.MemoryOutsideWindowKept
  intro s t hm h
  rcases (stepEffect h).gmem_cases with hg | ⟨d, rest, hp, hd, hen, bs, hg⟩
  · exact ⟨fun a _ => by rw [hg], fun hne => absurd hg hne⟩
  · refine ⟨fun a ha => ?_, fun _ => ⟨hen, d, rest, hp, hd⟩⟩
    rw [hg]
    refine Memory.read_writeRun_other _ _ _ hm a fun k _ hin heq => ?_
    have hin' := (inWindow_iff _ _).1 hin
    rw [heq] at hin'
    omega

/-! ### The interrupt -/

theorem runPacket_irq_of_true {op : PktOp} {p : Packet} {s t : State}
    (h : runPacket op p s = .next t) (h0 : s.irq = true) : t.irq = true := by
  rcases runPacket_next h with ⟨-, ht⟩ | ⟨-, ht⟩ | ⟨-, ht⟩ | ⟨-, ht⟩ | ⟨-, n, b, -, rfl, -⟩
  · rw [execTestUnitReady_eq] at ht; cases ht; simp [h0]
  · rw [execStartDisk_eq] at ht; cases ht; simp [h0]
  · obtain ⟨-, rfl⟩ := execSetMode_next ht; exact h0
  · obtain ⟨-, -, ⟨bs, -, -, -, rfl⟩ | ⟨bs, -, -, -, -, rfl⟩⟩ := execRead_next ht <;> simp [h0]
  · simp [responded, h0]

theorem execRData_irq_of_true {n : Nat} {s t : State} (h : execRData n s = .next t)
    (h0 : s.irq = true) : t.irq = true := by
  rw [execRData_eq] at h
  cases h
  split
  · simp [h0]
  · exact h0

/-- Settles O46: every effect but the status read keeps a line that is high. -/
theorem interruptFallsOnlyAtStatusRead : Obligations.InterruptFallsOnlyAtStatusRead := by
  unfold Obligations.InterruptFallsOnlyAtStatusRead
  intro s t h h0 h1
  by_contra hno
  suffices t.irq = true by simp [h1] at this
  cases stepEffect h with
  | statusRead n rest hp ht => exact absurd ⟨n, rest, hp⟩ hno
  | quiet ht => rw [ht]; exact h0
  | dataRead n rest hp ht => exact execRData_irq_of_true ht h0
  | packet d rest p op hp hc hop ht => exact runPacket_irq_of_true ht h0
  | identify | modeDataEnd | drain => subst_vars; simp [drained, h0]
  | packetCommand | packetWord | modeData | protect | triggerOff => subst_vars; exact h0

/-- Where a packet command raises the line (R268). -/
theorem runPacket_raises {op : PktOp} {p : Packet} {s t : State} (h : runPacket op p s = .next t)
    (h0 : s.irq = false) (h1 : t.irq = true) :
    s.nIEN = false ∧
      ((op = .reqMode ∨ op = .reqError ∨ op = .readToc ∨ op = .vendor71) ∨
       (op = .read ∧ s.featDma = false ∧ ∀ j, j < p.readCnt.toNat →
          mountReadSector s.cfg.mount (p.readFad.toNat + j) ≠ none) ∨
       (s.cfg.nodataPktIrq = true ∧ (op = .testUnitReady ∨ op = .startDisk))) := by
  rcases runPacket_next h with ⟨hop, ht⟩ | ⟨hop, ht⟩ | ⟨-, ht⟩ | ⟨hop, ht⟩ | ⟨hop, n, b, -, rfl, -⟩
  · rw [execTestUnitReady_eq] at ht; cases ht
    simp only [h0, Bool.false_or, Bool.and_eq_true, Bool.not_eq_true'] at h1
    exact ⟨h1.2, .inr (.inr ⟨h1.1, .inl hop⟩)⟩
  · rw [execStartDisk_eq] at ht; cases ht
    simp only [h0, Bool.false_or, Bool.and_eq_true, Bool.not_eq_true'] at h1
    exact ⟨h1.2, .inr (.inr ⟨h1.1, .inr hop⟩)⟩
  · obtain ⟨-, rfl⟩ := execSetMode_next ht
    simp [h0] at h1
  · obtain ⟨-, -, ⟨bs, hlen, hread, -, rfl⟩ | ⟨bs, -, -, -, -, rfl⟩⟩ := execRead_next ht
    · simp only [h0, Bool.false_or, Bool.and_eq_true, Bool.not_eq_true'] at h1
      refine ⟨h1.2, .inr (.inl ⟨hop, h1.1, fun j hj => ?_⟩)⟩
      rw [hread j bs[j] (List.getElem?_eq_getElem (by omega))]
      exact Option.some_ne_none _
    · simp [h0] at h1
  · simp only [responded, h0, Bool.false_or, Bool.not_eq_true'] at h1
    exact ⟨h1, .inl hop⟩

/-- Settles O45: every effect but those of R268 keeps a line that is low. -/
theorem interruptRisesOnlyAtListedEvents : Obligations.InterruptRisesOnlyAtListedEvents := by
  unfold Obligations.InterruptRisesOnlyAtListedEvents
  intro s t hinv h h0 h1
  cases stepEffect h with
  | quiet ht => rw [ht] at h1; simp [h0] at h1
  | statusRead n rest hp ht => rw [ht] at h1; cases h1
  | identify d rest hp hd hmax ht =>
    subst ht
    exact ⟨by simpa [h0] using h1, _, rest, hp, .inl ⟨d, rfl, hd⟩⟩
  | packet d rest p op hp hc hop ht =>
    obtain ⟨hn, hcase⟩ := runPacket_raises ht h0 h1
    refine ⟨hn, _, rest, hp, .inr (.inl ⟨d, p, rfl, hc, ?_⟩)⟩
    rcases hcase with (rfl | rfl | rfl | rfl) | ⟨rfl, hdma, hread⟩ | ⟨hirq, rfl | rfl⟩
    · exact .inl hop.symm
    · exact .inr (.inl hop.symm)
    · exact .inr (.inr (.inl hop.symm))
    · exact .inr (.inr (.inr (.inl hop.symm)))
    · exact .inr (.inr (.inr (.inr (.inl ⟨hop.symm, hdma, hread⟩))))
    · exact .inr (.inr (.inr (.inr (.inr ⟨hirq, .inl hop.symm⟩))))
    · exact .inr (.inr (.inr (.inr (.inr ⟨hirq, .inr hop.symm⟩))))
  | modeDataEnd d rest hl hp hs hle ht =>
    subst ht
    exact ⟨by simpa [h0] using h1, _, rest, hp, .inr (.inr (.inl ⟨d, rfl, hs, hle⟩))⟩
  | dataRead n rest hp ht =>
    rw [execRData_of_wf (s := { s with pending := rest }) hinv.queue] at ht
    cases ht
    by_cases hc : EmptiesQueue n (queueData s.q)
    · simp only [if_pos hc, h0, Bool.false_or, Bool.not_eq_true'] at h1
      exact ⟨h1, _, rest, hp, .inr (.inr (.inr (.inl ⟨n, rfl, hc.2⟩)))⟩
    · simp [if_neg hc, h0] at h1
  | drain d rest hp hd hen hdir ht =>
    subst ht
    have h1' : (s.irq || !s.nIEN) = true := h1
    exact ⟨by simpa [h0] using h1', _, rest, hp,
      .inr (.inr (.inr (.inr ⟨d, rfl, hd, hen, hdir⟩)))⟩
  | packetCommand | packetWord | modeData | protect | triggerOff =>
    subst_vars; exact absurd (h0.symm.trans h1) (by decide)

/-! ### The protocol state -/

/-- Settles O49: the effects on PSTATE are the rows of R22. -/
theorem protocolTransitions : Obligations.ProtocolTransitions := by
  unfold Obligations.ProtocolTransitions
  intro s t hw h
  cases stepEffect h with
  | packetCommand d rest hp hd ht => subst ht; exact .inr (.inl ⟨d, rest, hp, .inl ⟨hd, rfl⟩⟩)
  | identify d rest hp hd hmax ht => subst ht; exact .inr (.inl ⟨d, rest, hp, .inr ⟨hd, rfl⟩⟩)
  | packet d rest p op hp hc hop ht =>
    refine .inr (.inr ⟨d, rest, hp, .inl ⟨p, hc, ?_⟩⟩)
    have hps := runPacket_pstate ht
    by_cases hset : op = .setMode
    · subst hset
      obtain ⟨hdma, -⟩ := execSetMode_next (show execSetMode _ = _ from ht)
      exact .inl ⟨hop.symm, hdma, hps⟩
    · rw [if_neg hset] at hps
      refine .inr ⟨fun heq => hset ?_, hps⟩
      have hcode := Config.pktOp_code hw op
      rw [hop, heq] at hcode
      exact Option.some.inj (hcode.symm.trans (Config.pktOp_code hw .setMode))
  | modeDataEnd d rest hl hp hs hle ht =>
    subst ht; exact .inr (.inr ⟨d, rest, hp, .inr ⟨hs, hle, rfl⟩⟩)
  | quiet ht => left; rw [ht]
  | statusRead n rest hp ht => left; rw [ht]
  | dataRead n rest hp ht => left; rw [execRData_frame ht]
  | _ => subst_vars; exact .inl rfl

/-! ### The error state -/

/-- A packet command other than three keeps ERROR and ASC (R264). -/
theorem runPacket_error {op : PktOp} {p : Packet} {s t : State} (h : runPacket op p s = .next t)
    (hop : op ≠ .testUnitReady ∧ op ≠ .startDisk ∧ op ≠ .read) :
    t.error = s.error ∧ t.asc = s.asc := by
  obtain ⟨htur, hstart, hread⟩ := hop
  rcases runPacket_next h with ⟨hop, -⟩ | ⟨hop, -⟩ | ⟨-, ht⟩ | ⟨hop, -⟩ | ⟨-, n, b, -, rfl, -⟩
  · exact absurd hop htur
  · exact absurd hop hstart
  · obtain ⟨-, rfl⟩ := execSetMode_next ht; exact ⟨rfl, rfl⟩
  · exact absurd hop hread
  · exact ⟨rfl, rfl⟩

/-- A packet command other than two keeps CHECK, once set (R264). -/
theorem runPacket_check {op : PktOp} {p : Packet} {s t : State} (h : runPacket op p s = .next t)
    (hop : op ≠ .testUnitReady ∧ op ≠ .startDisk) (h0 : s.check = true) : t.check = true := by
  obtain ⟨htur, hstart⟩ := hop
  unfold State.check at h0 ⊢
  rcases runPacket_next h with ⟨hop, -⟩ | ⟨hop, -⟩ | ⟨-, ht⟩ | ⟨-, ht⟩ | ⟨-, n, b, -, rfl, -⟩
  · exact absurd hop htur
  · exact absurd hop hstart
  · obtain ⟨-, rfl⟩ := execSetMode_next ht; rw [withBit_getLsbD]; exact h0
  · obtain ⟨-, -, ⟨bs, -, -, -, rfl⟩ | ⟨bs, -, -, -, -, rfl⟩⟩ := execRead_next ht
    · dsimp only
      split
      · exact h0
      · rw [withBit_getLsbD]; exact h0
    · rw [withBit_getLsbD]; rfl
  · rw [responded, withBit_getLsbD]; exact h0

/-- The data read keeps CHECK. -/
theorem execRData_check {n : Nat} {s t : State} (h : execRData n s = .next t) :
    t.check = s.check := by
  rw [execRData_eq] at h
  cases h
  split
  · simp only [State.check, withBit_getLsbD]; simp
  · rfl

/-- What changes ERROR or ASC: the completion of one of three packets (R264). -/
theorem StepEffect.error_cases {s t : State} (h : StepEffect s t) :
    (t.error = s.error ∧ t.asc = s.asc) ∨
    ∃ d p rest, s.pending = .write (s.cfg.addrOf .data) d :: rest ∧ CompletesPacket s d p ∧
      (p[0] = s.cfg.pktTestUnitReady ∨ p[0] = s.cfg.pktStartDisk ∨ p[0] = s.cfg.pktRead) := by
  cases h with
  | packet d rest p op hp hc hop ht =>
    by_cases hother : op ≠ .testUnitReady ∧ op ≠ .startDisk ∧ op ≠ .read
    · obtain ⟨he, ha⟩ := runPacket_error ht hother
      exact .inl ⟨he, ha⟩
    · refine .inr ⟨d, p, rest, hp, hc, ?_⟩
      have : op = .testUnitReady ∨ op = .startDisk ∨ op = .read := by tauto
      rcases this with rfl | rfl | rfl
      · exact .inl hop.symm
      · exact .inr (.inl hop.symm)
      · exact .inr (.inr hop.symm)
  | quiet ht => left; rw [ht]; exact ⟨rfl, rfl⟩
  | statusRead n rest hp ht => left; rw [ht]; exact ⟨rfl, rfl⟩
  | dataRead n rest hp ht => left; rw [execRData_frame ht]; exact ⟨rfl, rfl⟩
  | _ => subst_vars; exact .inl ⟨rfl, rfl⟩

/-- What clears CHECK: the command PACKET or the completion of one of two packets (R264). -/
theorem StepEffect.check_cases {s t : State} (h : StepEffect s t) (h0 : s.check = true) :
    t.check = true ∨
    (∃ d rest, s.pending = .write (s.cfg.addrOf .statusCommand) d :: rest ∧
      leValue d % 256 = s.cfg.cmdPacket.toNat) ∨
    ∃ d p rest, s.pending = .write (s.cfg.addrOf .data) d :: rest ∧ CompletesPacket s d p ∧
      (p[0] = s.cfg.pktTestUnitReady ∨ p[0] = s.cfg.pktStartDisk) := by
  cases h with
  | packetCommand d rest hp hd ht => exact .inr (.inl ⟨d, rest, hp, hd⟩)
  | packet d rest p op hp hc hop ht =>
    by_cases hother : op ≠ .testUnitReady ∧ op ≠ .startDisk
    · exact .inl (runPacket_check ht hother h0)
    · refine .inr (.inr ⟨d, p, rest, hp, hc, ?_⟩)
      have : op = .testUnitReady ∨ op = .startDisk := by tauto
      rcases this with rfl | rfl
      · exact .inl hop.symm
      · exact .inr hop.symm
  | quiet ht => left; rw [ht]; exact h0
  | statusRead n rest hp ht => left; rw [ht]; exact h0
  | dataRead n rest hp ht => left; rw [execRData_check ht]; exact h0
  | identify | modeDataEnd | drain =>
    subst_vars
    left
    simp only [State.check, drained, withBit_getLsbD] at h0 ⊢
    simpa using h0
  | packetWord | modeData | protect | triggerOff => subst_vars; exact .inl h0

/-- Settles O51: from the effects on ERROR and ASC, and on CHECK. -/
theorem errorStateLife : Obligations.ErrorStateLife := by
  unfold Obligations.ErrorStateLife
  intro s t h
  refine ⟨fun hne => ?error, fun h0 h1 => ?check⟩
  case error =>
    rcases (stepEffect h).error_cases with ⟨he, ha⟩ | hcase
    · exact absurd hne (by simp [he, ha])
    · exact hcase
  case check =>
    rcases (stepEffect h).check_cases h0 with hc | hcase
    · simp [h1] at hc
    · exact hcase

end Sys2Proof.Machine
end

section
/-!
The invariant of spec/10_state.md is inductive (O57), and the range of the byte counter (O58): one
clause at a time for each effect of a step, the packet commands in a lemma of their own.
-/

namespace Sys2Proof.Machine

/-! ### Clauses -/

/-- Writing a bit keeps a mask at 0 if it writes 0 or a bit outside the mask. -/
theorem withBit_and_eq_zero {v m : Byte} {i : Nat} {b : Bool} (h : v &&& m = 0#8)
    (hb : b = false ∨ m.getLsbD i = false) : withBit v i b &&& m = 0#8 := by
  apply BitVec.eq_of_getLsbD_eq
  intro j _
  have hj : (v.getLsbD j && m.getLsbD j) = false := by
    rw [← BitVec.getLsbD_and, h, BitVec.getLsbD_zero]
  rw [BitVec.getLsbD_and, withBit_getLsbD, BitVec.getLsbD_zero]
  split
  · rename_i hij
    rcases hb with rfl | hm
    · rfl
    · rw [hij.1, hm, Bool.and_false]
  · exact hj

/-- The status of a completed transfer keeps the zero bits of R11. -/
theorem transferDone_status_zero {v : Byte} (h : v &&& 0xB6#8 = 0#8) :
    withBit (withBit (withBit v 3 false) 7 false) 6 true &&& 0xB6#8 = 0#8 :=
  withBit_and_eq_zero (withBit_and_eq_zero (withBit_and_eq_zero h (.inl rfl)) (.inl rfl)) (.inr rfl)

/-- The status of a completed command without data keeps the zero bits of R11. -/
theorem noDataDone_status_zero {v : Byte} (h : v &&& 0xB6#8 = 0#8) (c : Bool) :
    withBit (withBit (withBit (withBit v 7 false) 3 false) 6 true) 0 c &&& 0xB6#8 = 0#8 :=
  withBit_and_eq_zero (withBit_and_eq_zero (withBit_and_eq_zero (withBit_and_eq_zero h (.inl rfl))
    (.inl rfl)) (.inr rfl)) (.inr rfl)

/-- Writing COD and IO keeps the zero bits of R17. -/
theorem setReason_zero {v : Byte} (h : v &&& 0xFC#8 = 0#8) (cod io : Bool) :
    withBit (withBit v 0 cod) 1 io &&& 0xFC#8 = 0#8 :=
  withBit_and_eq_zero (withBit_and_eq_zero h (.inr rfl)) (.inr rfl)

/-- ERROR cleared has the zero bits of R12. -/
theorem cleared_error_zero : (0x00#8).getLsbD 3 = false ∧ (0x00#8).getLsbD 2 = false ∧
    (0x00#8).getLsbD 1 = false ∧ (0x00#8).getLsbD 0 = false := by decide

/-- A new sense key keeps the zero bits of R12. -/
theorem setSense_error_zero {s : State} (v : BitVec 4)
    (h : s.mcr = false ∧ s.abrt = false ∧ s.eomf = false ∧ s.ili = false) :
    (s.setSense v).mcr = false ∧ (s.setSense v).abrt = false ∧ (s.setSense v).eomf = false ∧
      (s.setSense v).ili = false := by
  simpa only [State.setSense_mcr, State.setSense_abrt, State.setSense_eomf, State.setSense_ili] using h

/-- Sectors that can be read make a well-formed queue (R60). -/
theorem queueWf_sectorNodes {c : Config} (hw : c.Wf) {fad : Nat} {bs : List (List Byte)}
    (h : ∀ j b, bs[j]? = some b → mountReadSector c.mount (fad + j) = some b) :
    QueueWf c.nodeCap (sectorNodes bs) := by
  refine QueueWf.sectors fun b hb => ?_
  obtain ⟨j, hj⟩ := List.getElem?_of_mem hb
  rw [mountReadSector_length hw (h j b hj)]
  exact hw.sector

/-! ### Packet commands -/

/-- A packet command keeps the invariant from a state that has it but for the clauses on the protocol
state, which the command leaves at once (R174). -/
theorem runPacket_inv {op : PktOp} {p : Packet} {s t : State}
    (hinv : { s with pstate := .normal }.Inv) (h : runPacket op p s = .next t) : t.Inv := by
  rcases runPacket_next h with ⟨-, ht⟩ | ⟨-, ht⟩ | ⟨-, ht⟩ | ⟨-, ht⟩ | ⟨-, n, b, hresp, rfl, hmax⟩
  · rw [execTestUnitReady_eq] at ht
    cases ht
    refine { hinv with
      status := noDataDone_status_zero hinv.status _
      intreason := setReason_zero hinv.intreason true true
      error := ?_
      packet := fun h => by cases h
      modeData := fun h => by cases h }
    cases hm : s.cfg.mount.present with
    | true => exact cleared_error_zero
    | false => exact setSense_error_zero s.cfg.senseNotReady hinv.error
  · rw [execStartDisk_eq] at ht
    cases ht
    exact { hinv with
      status := noDataDone_status_zero hinv.status _
      intreason := setReason_zero hinv.intreason true true
      error := cleared_error_zero
      packet := fun h => by cases h
      modeData := fun h => by cases h }
  · obtain ⟨-, rfl⟩ := execSetMode_next ht
    have hcnt := s.bytecnt.isLt
    exact { hinv with
      status := withBit_and_eq_zero hinv.status (.inr rfl)
      intreason := setReason_zero hinv.intreason false true
      packet := fun h => by cases h
      modeData := fun _ => by dsimp only; omega }
  · obtain ⟨-, -, ⟨bs, -, hread, hmax, rfl⟩ | ⟨bs, -, hread, -, hmax, rfl⟩⟩ := execRead_next ht
    · refine { hinv with
        queue := queueWf_sectorNodes hinv.cfg hread
        queueMax := hmax
        status := ?status
        intreason := ?reason
        packet := fun h => by cases h
        modeData := fun h => by cases h }
      case status =>
        dsimp only
        split
        · exact hinv.status
        · exact withBit_and_eq_zero hinv.status (.inr rfl)
      case reason =>
        dsimp only
        split
        · exact hinv.intreason
        · exact setReason_zero hinv.intreason false true
    · exact { hinv with
        queue := queueWf_sectorNodes hinv.cfg hread
        queueMax := hmax
        status := withBit_and_eq_zero hinv.status (.inr rfl)
        error := setSense_error_zero s.cfg.senseIllegalRequest hinv.error
        packet := fun h => by cases h
        modeData := fun h => by cases h }
  · exact { hinv with
      queue := QueueWf.response (packetResponse_length (s := s) hinv.cfg hresp)
      queueMax := hmax
      status := withBit_and_eq_zero hinv.status (.inr rfl)
      intreason := setReason_zero hinv.intreason false true
      packet := fun h => by cases h
      modeData := fun h => by cases h }

/-- The data read keeps the invariant. -/
theorem execRData_inv {n : Nat} {s t : State} (hinv : s.Inv) (h : execRData n s = .next t) :
    t.Inv := by
  obtain ⟨-, -, hwf, hlen⟩ := consumeBytes_spec n hinv.queue
  rw [execRData_of_wf hinv.queue] at h
  cases h
  refine { hinv with
    queue := hwf
    queueMax := fun m hm => hlen.trans (hinv.queueMax m hm)
    status := ?_ }
  dsimp only
  split
  · exact transferDone_status_zero hinv.status
  · exact hinv.status

/-- A drain keeps the invariant. -/
theorem drained_inv {s : State} (hinv : s.Inv) : (drained s).Inv := by
  obtain ⟨-, -, hwf, hlen⟩ := consumeBytes_spec (drainTotal s) hinv.queue
  exact { hinv with
    queue := hwf
    queueMax := fun m hm => hlen.trans (hinv.queueMax m hm)
    status := transferDone_status_zero hinv.status
    gdst := rfl
    gmem := Memory.wf_writeRun _ _ _ hinv.gmem
    dmaEnd := fun hnone => by
      have hnone' : s.cfg.dmaEndIrq = none := hnone
      simp [drained, hinv.dmaEnd hnone', hnone'] }

/-- Settles O57, effect by effect. -/
theorem stepKeepsInvariant : Obligations.StepKeepsInvariant := by
  unfold Obligations.StepKeepsInvariant
  intro s t hinv h
  have hpend : ∀ ps, { s with pending := ps }.Inv := fun ps => { hinv with }
  cases stepEffect h with
  | quiet ht => rw [ht]; exact { hinv with }
  | statusRead n rest hp ht => rw [ht]; exact { hinv with }
  | dataRead n rest hp ht => exact execRData_inv (hpend rest) ht
  | packetCommand d rest hp hd ht =>
    subst ht
    exact { hinv with
      status := withBit_and_eq_zero (withBit_and_eq_zero hinv.status (.inl rfl)) (.inr rfl)
      intreason := setReason_zero hinv.intreason true false
      packet := fun _ => by simp [packetStarted]
      modeData := fun h => by cases h }
  | identify d rest hp hd hmax ht =>
    subst ht
    have hpos : 1 ≤ s.cfg.identBlock.length := by rw [hinv.cfg.ident]; decide
    have hcap : s.cfg.identBlock.length ≤ s.cfg.nodeCap := hinv.cfg.ident ▸ hinv.cfg.nodeCap.1
    exact { hinv with
      status := withBit_and_eq_zero (withBit_and_eq_zero hinv.status (.inl rfl)) (.inr rfl)
      queue := (QueueWf.nil _).push hpos hcap
      queueMax := fun m hm => Nat.pos_of_ne_zero fun h0 => hmax (h0 ▸ hm)
      packet := fun h => by cases h
      modeData := fun h => by cases h }
  | packetWord d rest hs hc ht =>
    subst ht
    have hcnt := hinv.packet hs
    exact { hinv with
      packet := fun _ => by simp only [appendPacketWord]; omega
      modeData := fun h => by cases hs.symm.trans h }
  | packet d rest p op hp hc hop ht =>
    refine runPacket_inv ?_ ht
    exact { hinv with
      packet := fun h => by cases h
      modeData := fun h => by cases h }
  | modeData d rest hl hs hpos ht =>
    subst ht
    have hcnt := hinv.modeData hs
    exact { hinv with
      packet := fun h => by cases hs.symm.trans h
      modeData := fun _ => by dsimp only; omega }
  | modeDataEnd d rest hl hp hs hle ht =>
    subst ht
    exact { hinv with
      status := withBit_and_eq_zero hinv.status (.inl rfl)
      packet := fun h => by cases h
      modeData := fun h => by cases h }
  | protect d rest hp hd ht =>
    subst ht
    exact { hinv with gdapro := by dsimp only [gdaproMask]; rw [BitVec.and_assoc, BitVec.and_self] }
  | triggerOff rest ht => subst ht; exact { hinv with gdst := rfl }
  | drain d rest hp hd hen hdir ht => subst ht; exact drained_inv (hpend rest)

/-! ### The counter (R23, R177, R178) -/

/-- A packet command leaves the counter, or loads it from BYTECNT. -/
theorem runPacket_pcnt {op : PktOp} {p : Packet} {s t : State} (h : runPacket op p s = .next t) :
    t.pcnt = s.pcnt ∨ t.pcnt = s.bytecnt.toNat := by
  rcases runPacket_next h with ⟨-, ht⟩ | ⟨-, ht⟩ | ⟨-, ht⟩ | ⟨-, ht⟩ | ⟨-, n, b, -, rfl, -⟩
  · rw [execTestUnitReady_eq] at ht; cases ht; exact .inl rfl
  · rw [execStartDisk_eq] at ht; cases ht; exact .inl rfl
  · obtain ⟨-, rfl⟩ := execSetMode_next ht; exact .inr rfl
  · obtain ⟨-, -, ⟨bs, -, -, -, rfl⟩ | ⟨bs, -, -, -, -, rfl⟩⟩ := execRead_next ht <;> exact .inl rfl
  · exact .inl rfl

/-- What a step makes of the counter: nothing, a count of packet or mode-data bytes, or mode data
taken from it. -/
theorem StepEffect.pcnt_cases {s t : State} (h : StepEffect s t) (hinv : s.Inv) :
    t.pcnt = s.pcnt ∨ (0 ≤ t.pcnt ∧ t.pcnt ≤ 65535) ∨
    (s.pstate = .awaitingModeData ∧ ∃ n ∈ s.cfg.accessLengths, t.pcnt = s.pcnt - n) := by
  cases h with
  | packetCommand d rest hp hd ht => subst ht; right; left; simp [packetStarted]
  | packetWord d rest hs hc ht =>
    subst ht
    have hcnt := hinv.packet hs
    right; left; simp only [appendPacketWord]; omega
  | packet d rest p op hp hc hop ht =>
    have hcnt := s.bytecnt.isLt
    rcases runPacket_pcnt ht with h | h <;> (right; left; rw [h]; dsimp only; omega)
  | modeData d rest hl hs hpos ht => subst ht; exact .inr (.inr ⟨hs, d.length, hl, rfl⟩)
  | modeDataEnd d rest hl hp hs hle ht => subst ht; exact .inr (.inr ⟨hs, d.length, hl, rfl⟩)
  | quiet ht => left; rw [ht]
  | statusRead n rest hp ht => left; rw [ht]
  | dataRead n rest hp ht => left; rw [execRData_frame ht]
  | _ => subst_vars; exact .inl rfl

/-- Settles O58: mode data takes at most 4 bytes from a counter that is not negative, and only from 0
does that leave -4. -/
theorem counterRange : Obligations.CounterRange := by
  unfold Obligations.CounterRange
  intro s t hinv hlens hlow hhigh h
  rcases (stepEffect h).pcnt_cases hinv with heq | ⟨h0, h1⟩ | ⟨hs, n, hn, heq⟩
  · rw [heq]; exact ⟨hlow, hhigh, fun _ h3 => h3⟩
  · exact ⟨by omega, h1, fun _ _ => by omega⟩
  · have hn4 := hlens n hn
    have hcnt := hinv.modeData hs
    refine ⟨by omega, by omega, fun hne _ => ?_⟩
    have : s.pcnt ≠ 0 := fun h0 => hne ⟨hs, h0⟩
    omega

end Sys2Proof.Machine
end

section
/-!
Stops: what a step that does not go on ends in, from the operations that can stop (the dispatcher, the
command write, the data write, the trigger) to the causes of every fault and refusal
(spec/60_exceptions.md R261, spec/30_encoding.md R95; O8, O9).
-/

namespace Sys2Proof.Machine

/-! ### Operations -/

/-- A register read goes on. -/
theorem exec_read_total (r : Reg) (n : Nat) (s : State) : ∃ t, exec (r.readInstr n) s = .next t := by
  cases r <;> exact ⟨_, rfl⟩

/-- A register write goes on, but for the three that do more than store. -/
theorem exec_write_total {r : Reg} (d : List Byte) (s : State)
    (h : r ≠ .statusCommand ∧ r ≠ .data ∧ r ≠ .gdst) :
    ∃ t, exec (r.writeInstr d) s = .next t := by
  obtain ⟨hcommand, hdata, htrigger⟩ := h
  cases r
  case statusCommand => exact absurd rfl hcommand
  case data => exact absurd rfl hdata
  case gdst => exact absurd rfl htrigger
  case gdapro =>
    by_cases hc : leValue d / 65536 % 65536 = s.cfg.gdaproCode.toNat
    · exact ⟨_, execWGdapro_of_code hc⟩
    · exact ⟨_, execWGdapro_of_not_code hc⟩
  all_goals exact ⟨_, rfl⟩

/-- Every way a command write can end. -/
theorem commandWrite_cases {s : State} (cmd : Byte) :
    (s.CommandOpen ∧ s.cfg.ataOp cmd = none ∧
      commandWrite cmd s = .fault (.unimplementedCommand cmd)) ∨
    (s.CommandOpen ∧ ∃ t, commandWrite cmd s = .next t) ∨
    (s.CommandOpen ∧ s.cfg.cmdIdentify = cmd ∧ s.cfg.queueMaxNodes = some 0 ∧
      commandWrite cmd s = .fault .allocationFailure) ∨
    (¬ s.CommandOpen ∧ commandWrite cmd s = .refused .commandInNonNormal) := by
  by_cases ho : s.CommandOpen
  · rw [commandWrite_open ho]
    cases hop : s.cfg.ataOp cmd with
    | none => exact .inl ⟨ho, rfl, rfl⟩
    | some op =>
      rcases runCommand_total (op := op) ho with ht | ⟨rfl, hf, hmax⟩
      · exact .inr (.inl ⟨ho, ht⟩)
      · exact .inr (.inr (.inl ⟨ho, Config.ataOp_some hop, hmax, hf⟩))
  · exact .inr (.inr (.inr ⟨ho, commandGate_closed ho _⟩))

/-- A packet without a command, or one whose command stops as it does. -/
theorem dispatchPacket_cases (s : State) :
    (s.cfg.pktOp s.pkt[0] = none ∧ dispatchPacket s = .fault (.unimplementedPacket s.pkt[0])) ∨
    ∃ op, s.cfg.pktCode op = s.pkt[0] ∧ dispatchPacket s = runPacket op s.pkt s := by
  unfold dispatchPacket
  cases hop : s.cfg.pktOp s.pkt[0] with
  | none => exact .inl ⟨rfl, rfl⟩
  | some op => exact .inr ⟨op, Config.pktOp_some hop, rfl⟩

/-- Every way a data write can end: going on, or with the packet it completes. -/
theorem execWData_cases (d : List Byte) (s : State) :
    (∃ t, execWData d s = .next t) ∨
    ∃ p, CompletesPacket s d p ∧
      ((s.cfg.pktOp p[0] = none ∧ execWData d s = .fault (.unimplementedPacket p[0])) ∨
       ∃ op, s.cfg.pktCode op = p[0] ∧
        execWData d s = runPacket op p { s with pkt := p, pcnt := 12 }) := by
  by_cases hlast : s.pstate = .awaitingPacket ∧ s.pcnt = 10
  · have hcp := completesPacket_of hlast.1 hlast.2 d
    rw [execWData_completes hcp]
    exact .inr ⟨_, hcp, dispatchPacket_cases { s with pkt := _, pcnt := 12 }⟩
  · left
    cases hs : s.pstate with
    | normal => exact ⟨_, execWData_normal hs d⟩
    | awaitingPacket =>
      rw [execWData_awaiting hs, packetWrite_eq, if_neg fun hc => hlast ⟨hs, hc⟩]; exact ⟨_, rfl⟩
    | awaitingModeData => rw [execWData_modeData hs, modeDataWrite_eq]; exact ⟨_, rfl⟩

/-- A code that is not found belongs to no packet command. -/
theorem pktCode_ne_of_pktOp_none {c : Config} (hw : c.Wf) {b : Byte} (h : c.pktOp b = none)
    (op : PktOp) : c.pktCode op ≠ b := by
  rintro rfl; rw [Config.pktOp_code hw] at h; cases h

/-- A code that is not found belongs to no ATA command. -/
theorem ataCode_ne_of_ataOp_none {c : Config} (hw : c.Wf) {b : Byte} (h : c.ataOp b = none)
    (op : AtaOp) : c.ataCode op ≠ b := by
  rintro rfl; rw [Config.ataOp_code hw] at h; cases h

/-- Every way a trigger write can end. -/
theorem execWGdst_cases (d : List Byte) (s : State) :
    (∃ t, execWGdst d s = .next t) ∨
    (leValue d % 2 ^ 32 ≠ 0 ∧ s.dmaEnabled = true ∧ s.dmaToMemory = false ∧
      execWGdst d s = .fault (.unimplementedFeature .dmaDirection)) := by
  by_cases h0 : leValue d % 2 ^ 32 = 0
  · exact .inl ⟨_, execWGdst_zero h0 s⟩
  cases hen : s.dmaEnabled with
  | false => exact .inl ⟨_, execWGdst_disabled h0 hen⟩
  | true =>
    cases hdir : s.dmaToMemory with
    | false => exact .inr ⟨h0, rfl, rfl, execWGdst_direction h0 hen hdir⟩
    | true => exact .inl ⟨_, execWGdst_drain (wordOf_ne_zero h0) hen hdir⟩

/-! ### The step -/

/-- Where the run does not go on, no policy has changed the outcome. -/
theorem underFaultPolicy_eq_of_stop {s : State} {o : Out} (h : ∀ t, underFaultPolicy s o ≠ .next t) :
    underFaultPolicy s o = o := by
  cases ho : underFaultPolicy s o with
  | next t => exact absurd ho (h t)
  | fault f => exact (underFaultPolicy_fault ho).symm
  | refused r => exact (underFaultPolicy_refused.1 ho).symm

/-- Every way a step that does not go on can end: at the dispatcher's checks, or in one of the three
writes that do more than store. -/
theorem step_stop_cases {s : State} (h : ∀ t, step s ≠ .next t) :
    ∃ a rest, s.pending = a :: rest ∧
      ((a.len ∉ s.cfg.accessLengths ∧ step s = .refused .notATransaction) ∨
       (a.len ∈ s.cfg.accessLengths ∧ s.cfg.lookup a.addr = none ∧
         step s = .fault (.unimplementedAccess .noDescriptor a.addr)) ∨
       (a.len ∈ s.cfg.accessLengths ∧ (∃ r, s.cfg.addrOf r = a.addr) ∧ s.cfg.regLen < a.len ∧
         step s = .fault (.unimplementedAccess .tooLong a.addr)) ∨
       (a.len ∈ s.cfg.accessLengths ∧ ∃ d,
         ((a = .write (s.cfg.addrOf .statusCommand) d ∧
           step s = commandWrite (byteOf d) { s with pending := rest }) ∨
          (a = .write (s.cfg.addrOf .data) d ∧
           step s = execWData d { s with pending := rest }) ∨
          (a = .write (s.cfg.addrOf .gdst) d ∧
           step s = execWGdst d { s with pending := rest })))) := by
  cases hp : s.pending with
  | nil => exact absurd (step_of_pending_nil hp) (h s)
  | cons a rest =>
    refine ⟨a, rest, rfl, ?_⟩
    have hreject : ∀ e, decodeAccess s.cfg a = .error e → step s = rejectOutcome e := fun e he => by
      rw [step_of_decodeAccess_error hp he] at h ⊢
      exact underFaultPolicy_eq_of_stop h
    rcases decodeAccess_cases s.cfg a with ⟨hl, hd⟩ | ⟨hl, hnone, hd⟩ | ⟨r, hl, hr, hlong, hd⟩ |
      ⟨r, ⟨haddr, hlen⟩, hd⟩
    · exact .inl ⟨hl, hreject _ hd⟩
    · exact .inr (.inl ⟨hl, hnone, hreject _ hd⟩)
    · exact .inr (.inr (.inl ⟨hl, ⟨r, hr⟩, hlong, hreject _ hd⟩))
    · refine .inr (.inr (.inr ⟨(Config.lenOk_iff.1 hlen).1, ?_⟩))
      have he := step_of_decodeAccess_ok hp hd
      cases a with
      | read x n =>
        obtain ⟨t, ht⟩ := exec_read_total r n { s with pending := rest }
        exact absurd (he.trans ht) (h t)
      | write x d =>
        obtain rfl : x = s.cfg.addrOf r := haddr
        refine ⟨d, ?_⟩
        by_cases hr : r ≠ .statusCommand ∧ r ≠ .data ∧ r ≠ .gdst
        · obtain ⟨t, ht⟩ := exec_write_total d { s with pending := rest } hr
          exact absurd (he.trans ht) (h t)
        · have : r = .statusCommand ∨ r = .data ∨ r = .gdst := by tauto
          rcases this with rfl | rfl | rfl
          · exact .inl ⟨rfl, he⟩
          · exact .inr (.inl ⟨rfl, he⟩)
          · exact .inr (.inr ⟨rfl, he⟩)

/-! ### Causes -/

theorem addrOf_ne_of_lookup_none {c : Config} (hw : c.Wf) {a : Word} (h : c.lookup a = none)
    (r : Reg) : c.addrOf r ≠ a := by
  rintro rfl; rw [Config.lookup_addrOf hw] at h; cases h

theorem readSel_toNat (p : Packet) : p.readSel.toNat = p[1].toNat / 16 := by
  have := (p[1]).isLt
  simp only [Packet.readSel, BitVec.extractLsb'_toNat, Nat.shiftRight_eq_div_pow]; omega

theorem readPtype_toNat (p : Packet) : p.readPtype.toNat = p[1].toNat % 2 := by
  simp [Packet.readPtype, BitVec.extractLsb'_toNat]

theorem readSel_eq_two_iff (p : Packet) : p.readSel = 2#4 ↔ p[1].toNat / 16 = 2 := by
  rw [← BitVec.toNat_inj, readSel_toNat]; rfl

theorem readPtype_ne_zero_iff (p : Packet) : p.readPtype ≠ 0#1 ↔ p[1].toNat % 2 = 1 := by
  rw [ne_eq, ← BitVec.toNat_inj, readPtype_toNat, BitVec.toNat_ofNat]; omega

/-- Settles O8: the operation that stopped the step, and why it did. -/
theorem faultCauses : Obligations.FaultCauses := by
  unfold Obligations.FaultCauses
  intro s f hw hf
  obtain ⟨a, rest, hp, hcase⟩ := step_stop_cases (s := s) fun t ht => by rw [hf] at ht; cases ht
  rw [hf] at hcase
  rcases hcase with ⟨-, he⟩ | ⟨hl, hnone, he⟩ | ⟨hl, hr, hlong, he⟩ |
    ⟨hl, d, ⟨rfl, he⟩ | ⟨rfl, he⟩ | ⟨rfl, he⟩⟩
  · cases he
  · cases he
    exact ⟨a, rest, hp, hl, rfl, .inl ⟨rfl, addrOf_ne_of_lookup_none hw hnone⟩⟩
  · cases he
    exact ⟨a, rest, hp, hl, rfl, .inr ⟨rfl, hr, hlong⟩⟩
  · refine ⟨_, rest, hp, hl, ?_⟩
    rcases commandWrite_cases (s := { s with pending := rest }) (byteOf d) with ⟨-, hop, hc⟩ |
      ⟨-, t, hc⟩ | ⟨-, hid, hmax, hc⟩ | ⟨-, hc⟩ <;> rw [hc] at he <;> cases he
    · exact ⟨d, rfl, byteOf_toNat d, ataCode_ne_of_ataOp_none hw hop⟩
    · exact ⟨d, 0, hmax, .inl ⟨rfl, rfl, ((byteOf_eq_iff d _).1 hid.symm).symm⟩⟩
  · refine ⟨_, rest, hp, hl, ?_⟩
    rcases execWData_cases d { s with pending := rest } with ⟨t, ht⟩ | ⟨p, hc, ⟨hop, hd⟩ | ⟨op, hop, hd⟩⟩
    · rw [ht] at he; cases he
    · rw [hd] at he; cases he
      exact ⟨d, p, rfl, hc, rfl, pktCode_ne_of_pktOp_none hw hop⟩
    · rw [hd] at he
      rcases runPacket_fault he.symm with ⟨rfl, hdma, rfl⟩ | ⟨rfl, rfl, hsel⟩ |
        ⟨rfl, rfl, hsel, hptype⟩ | ⟨rfl, rfl, m, hmax, hm⟩ | ⟨rfl, hmax, hwhich⟩
      · exact ⟨d, p, rfl, hc, hop.symm, hdma⟩
      · exact ⟨d, p, rfl, hc, hop.symm, mt (readSel_eq_two_iff p).2 hsel⟩
      · exact ⟨d, p, rfl, hc, hop.symm, (readSel_eq_two_iff p).1 hsel,
          (readPtype_ne_zero_iff p).1 hptype⟩
      · exact ⟨d, m, hmax, .inr ⟨p, rfl, hc, .inr ⟨hop.symm, hm⟩⟩⟩
      · refine ⟨d, 0, hmax, .inr ⟨p, rfl, hc, .inl ⟨rfl, ?_⟩⟩⟩
        rcases hwhich with rfl | rfl | rfl | rfl
        · exact .inl hop.symm
        · exact .inr (.inl hop.symm)
        · exact .inr (.inr (.inl hop.symm))
        · exact .inr (.inr (.inr hop.symm))
  · refine ⟨_, rest, hp, hl, ?_⟩
    rcases execWGdst_cases d { s with pending := rest } with ⟨t, ht⟩ | ⟨h0, hen, hdir, ht⟩ <;>
      rw [ht] at he <;> cases he
    exact ⟨d, rfl, h0, hen, hdir⟩

/-- Where no command is decoded (R150). -/
theorem not_commandOpen {s : State} (h : ¬ s.CommandOpen) :
    s.pstate ≠ .normal ∧ s.cfg.cmdInNonNormal = .refuse := by
  refine ⟨fun hn => h (.inl hn), ?_⟩
  cases hp : s.cfg.cmdInNonNormal with
  | process => exact absurd (.inr hp) h
  | refuse => rfl

/-- Settles O9: only the dispatcher and the command write refuse. -/
theorem refusalCauses : Obligations.RefusalCauses := by
  unfold Obligations.RefusalCauses
  intro s r hf
  obtain ⟨a, rest, hp, hcase⟩ := step_stop_cases (s := s) fun t ht => by rw [hf] at ht; cases ht
  refine ⟨a, rest, hp, ?_⟩
  rw [hf] at hcase
  rcases hcase with ⟨hl, he⟩ | ⟨-, -, he⟩ | ⟨-, -, -, he⟩ | ⟨-, d, ⟨rfl, he⟩ | ⟨rfl, he⟩ | ⟨rfl, he⟩⟩
  · cases he; exact .inl ⟨rfl, hl⟩
  · cases he
  · cases he
  · rcases commandWrite_cases (s := { s with pending := rest }) (byteOf d) with ⟨-, -, hc⟩ |
      ⟨-, t, hc⟩ | ⟨-, -, -, hc⟩ | ⟨ho, hc⟩ <;> rw [hc] at he <;> cases he
    exact .inr ⟨rfl, ⟨d, rfl⟩, not_commandOpen ho⟩
  · rcases execWData_cases d { s with pending := rest } with ⟨t, ht⟩ | ⟨p, -, ⟨-, hd⟩ | ⟨op, -, hd⟩⟩
    · rw [ht] at he; cases he
    · rw [hd] at he; cases he
    · exact absurd (hd ▸ he.symm) (runPacket_ne_refused op p _ r)
  · rcases execWGdst_cases d { s with pending := rest } with ⟨t, ht⟩ | ⟨-, -, -, ht⟩ <;>
      rw [ht] at he <;> cases he

end Sys2Proof.Machine
end

section
/-!
What a step does not see (spec/10_state.md R25, R26): `Twins` relates states that differ in TMODE and
the queue only, `Blind` says which relations of the two a step cannot tell apart, and every operation,
then the step, takes twins to twins. The table of transfer modes (O53) and the node boundaries (O54)
are two cases of it.
-/

namespace Sys2Proof.Machine

/-- States that are the same but for TMODE, related by `T`, and the queue, related by `Q`. -/
def Twins (T : TransferModes → TransferModes → Prop) (Q : List Node → List Node → Prop)
    (s u : State) : Prop :=
  u = { s with tmode := u.tmode, q := u.q } ∧ T s.tmode u.tmode ∧ Q s.q u.q

/-- Tables related by `T` and queues related by `Q` that no step tells apart, with `Q'` what it makes
of the queues. -/
structure Blind (T : TransferModes → TransferModes → Prop) (Q Q' : List Node → List Node → Prop) :
    Prop where
  /-- SET_FEATURES keeps the relation of the tables -/
  modes : ∀ sc a b, T a b → T (transferModes sc a) (transferModes sc b)
  /-- the bytes consumed are the same -/
  consumed : ∀ k p q, Q p q → (consumeBytes k q).1 = (consumeBytes k p).1
  /-- the queues left are related -/
  left : ∀ k p q, Q p q → Q' (consumeBytes k p).2 (consumeBytes k q).2
  /-- the number of bytes queued is the same -/
  bytes : ∀ p q, Q' p q → queueBytes q = queueBytes p
  keep : ∀ p q, Q p q → Q' p q
  refl : ∀ q, Q' q q

theorem Out.Agree.mono {R R' : State → State → Prop} {a b : Out} (h : Out.Agree R a b)
    (hR : ∀ t u, R t u → R' t u) : Out.Agree R' a b := by
  cases a <;> cases b
  case next.next t u => exact hR t u h
  all_goals exact h

/-! ### Operations that do not read the queue -/

section
variable {T : TransferModes → TransferModes → Prop} {Q Q' : List Node → List Node → Prop}
  {s : State} {m : TransferModes} {q : List Node}

/-- An operation that leaves TMODE and the queue takes twins to twins. -/
theorem Blind.twins_keep (hB : Blind T Q Q') (hT : T s.tmode m) (hQ : Q s.q q) :
    Twins T Q' s { s with tmode := m, q := q } := ⟨rfl, hT, hB.keep _ _ hQ⟩

theorem commandGate_agree {k : State → Out} {R : State → State → Prop}
    (h : Out.Agree R (k s) (k { s with tmode := m, q := q })) :
    Out.Agree R (commandGate s k) (commandGate { s with tmode := m, q := q } k) := by
  by_cases ho : s.CommandOpen
  · rw [commandGate_open ho, commandGate_open (s := { s with tmode := m, q := q }) ho]
    exact h
  · rw [commandGate_closed ho, commandGate_closed (s := { s with tmode := m, q := q }) ho]
    rfl

theorem execIdentify_agree (hB : Blind T Q Q') (hT : T s.tmode m) (ho : s.CommandOpen) :
    Out.Agree (Twins T Q') (execIdentify s) (execIdentify { s with tmode := m, q := q }) := by
  rcases execIdentify_cases ho with ⟨h1, hmax⟩ | ⟨h1, hmax⟩ <;>
    rcases execIdentify_cases (s := { s with tmode := m, q := q }) ho with ⟨h2, hmax'⟩ | ⟨h2, hmax'⟩
  · rw [h1, h2]; exact ⟨rfl, hT, hB.refl _⟩
  · exact absurd hmax' hmax
  · exact absurd hmax hmax'
  · rw [h1, h2]; rfl

theorem execSetFeatures_agree (hB : Blind T Q Q') (hT : T s.tmode m) (hQ : Q s.q q)
    (ho : s.CommandOpen) :
    Out.Agree (Twins T Q') (execSetFeatures s) (execSetFeatures { s with tmode := m, q := q }) := by
  rw [execSetFeatures_eq ho, execSetFeatures_eq (s := { s with tmode := m, q := q }) ho]
  refine ⟨rfl, ?_, hB.keep _ _ hQ⟩
  dsimp only
  split
  · exact hB.modes _ _ _ hT
  · exact hT

theorem runCommand_agree (hB : Blind T Q Q') (hT : T s.tmode m) (hQ : Q s.q q) (op : AtaOp) :
    Out.Agree (Twins T Q') (runCommand op s) (runCommand op { s with tmode := m, q := q }) := by
  by_cases ho : s.CommandOpen
  · cases op with
    | nop | reset | diagnostic => exact commandGate_agree (k := .next) (hB.twins_keep hT hQ)
    | packet =>
      show Out.Agree _ (execPacket s) (execPacket _)
      rw [execPacket_eq ho, execPacket_eq (s := { s with tmode := m, q := q }) ho]
      exact ⟨rfl, hT, hB.keep _ _ hQ⟩
    | identify => exact execIdentify_agree hB hT ho
    | setFeatures => exact execSetFeatures_agree hB hT hQ ho
  · rw [runCommand_closed ho, runCommand_closed (s := { s with tmode := m, q := q }) ho]; rfl

theorem commandWrite_agree (hB : Blind T Q Q') (hT : T s.tmode m) (hQ : Q s.q q) (cmd : Byte) :
    Out.Agree (Twins T Q') (commandWrite cmd s) (commandWrite cmd { s with tmode := m, q := q }) := by
  refine commandGate_agree ?_
  cases s.cfg.ataOp cmd with
  | none => rfl
  | some op => exact runCommand_agree hB hT hQ op

theorem respond_agree (hB : Blind T Q Q') (hT : T s.tmode m) (b : List Byte) :
    Out.Agree (Twins T Q') (respond s b) (respond { s with tmode := m, q := q } b) := by
  by_cases h : b = [] ∨ s.cfg.queueMaxNodes ≠ some 0
  · rw [respond_eq h, respond_eq (s := { s with tmode := m, q := q }) h, State.announceDataIn_eq,
      State.announceDataIn_eq]
    exact ⟨rfl, hT, hB.refl _⟩
  · push Not at h
    rw [respond_exhausted h.1 h.2, respond_exhausted (s := { s with tmode := m, q := q }) h.1 h.2]
    rfl

/-- A command that queues a response answers twins alike, if the response is the same. -/
theorem runPacket_agree_of_response (hB : Blind T Q Q') (hT : T s.tmode m) {op : PktOp} {p : Packet}
    {n : Half} {b : List Byte} (h : packetResponse op p s = some (n, b))
    (h' : packetResponse op p { s with tmode := m, q := q } = some (n, b)) :
    Out.Agree (Twins T Q') (runPacket op p s) (runPacket op p { s with tmode := m, q := q }) := by
  rw [runPacket_eq_respond h, runPacket_eq_respond h']
  exact respond_agree (s := { s with pstate := .normal, bytecnt := n }) hB hT b

theorem execRead_agree (hB : Blind T Q Q') (hT : T s.tmode m) (sel : BitVec 4) (ptype : BitVec 1)
    (fad cnt : BitVec 24) :
    Out.Agree (Twins T Q') (execRead sel ptype fad cnt s)
      (execRead sel ptype fad cnt { s with tmode := m, q := q }) := by
  by_cases hsel : sel = 2#4
  swap
  · rw [execRead_selection hsel, execRead_selection hsel]; rfl
  subst hsel
  by_cases hptype : ptype = 0#1
  swap
  · rw [execRead_addressing hptype, execRead_addressing hptype]; rfl
  subst hptype
  cases hr : readSectors s.cfg cnt.toNat fad.toNat [] with
  | all bs =>
    rw [execRead_of_all hr, execRead_of_all (s := { s with tmode := m, q := q }) hr]
    exact ⟨rfl, hT, hB.refl _⟩
  | failed bs =>
    rw [execRead_of_failed hr, execRead_of_failed (s := { s with tmode := m, q := q }) hr]
    exact ⟨rfl, hT, hB.refl _⟩
  | exhausted =>
    rw [execRead_of_exhausted hr, execRead_of_exhausted (s := { s with tmode := m, q := q }) hr]
    rfl

theorem execSetMode_agree (hB : Blind T Q Q') (hT : T s.tmode m) (hQ : Q s.q q) :
    Out.Agree (Twins T Q') (execSetMode s) (execSetMode { s with tmode := m, q := q }) := by
  cases hd : s.featDma with
  | true => rw [execSetMode_dma hd, execSetMode_dma (s := { s with tmode := m, q := q }) hd]; rfl
  | false =>
    rw [execSetMode_pio hd, execSetMode_pio (s := { s with tmode := m, q := q }) hd]
    exact ⟨rfl, hT, hB.keep _ _ hQ⟩

theorem runPacket_agree (hB : Blind T Q Q') (hT : T s.tmode m) (hQ : Q s.q q) (op : PktOp)
    (p : Packet) :
    Out.Agree (Twins T Q') (runPacket op p s) (runPacket op p { s with tmode := m, q := q }) := by
  cases op with
  | testUnitReady =>
    show Out.Agree _ (execTestUnitReady s) (execTestUnitReady _)
    rw [execTestUnitReady_eq, execTestUnitReady_eq]
    exact ⟨rfl, hT, hB.keep _ _ hQ⟩
  | startDisk =>
    show Out.Agree _ (execStartDisk s) (execStartDisk _)
    rw [execStartDisk_eq, execStartDisk_eq]
    exact ⟨rfl, hT, hB.keep _ _ hQ⟩
  | setMode => exact execSetMode_agree hB hT hQ
  | read => exact execRead_agree hB hT _ _ _ _
  | reqMode | reqError | readToc | vendor71 => exact runPacket_agree_of_response hB hT rfl rfl

theorem dispatchPacket_agree (hB : Blind T Q Q') (hT : T s.tmode m) (hQ : Q s.q q) :
    Out.Agree (Twins T Q') (dispatchPacket s) (dispatchPacket { s with tmode := m, q := q }) := by
  unfold dispatchPacket
  dsimp only
  cases s.cfg.pktOp s.pkt[0] with
  | none => rfl
  | some op => exact runPacket_agree hB hT hQ op s.pkt

theorem execWData_agree (hB : Blind T Q Q') (hT : T s.tmode m) (hQ : Q s.q q) (d : List Byte) :
    Out.Agree (Twins T Q') (execWData d s) (execWData d { s with tmode := m, q := q }) := by
  have hkeep := hB.keep _ _ hQ
  obtain hs | hs | hs : s.pstate = .normal ∨ s.pstate = .awaitingPacket ∨
      s.pstate = .awaitingModeData := by cases s.pstate <;> simp
  · rw [execWData_normal hs, execWData_normal (s := { s with tmode := m, q := q }) hs]
    exact ⟨rfl, hT, hkeep⟩
  · rw [execWData_awaiting hs, execWData_awaiting (s := { s with tmode := m, q := q }) hs,
      packetWrite_eq, packetWrite_eq]
    dsimp only
    split
    · exact dispatchPacket_agree (s := appendPacketWord (halfOf d) s) hB hT hQ
    · exact ⟨rfl, hT, hkeep⟩
  · rw [execWData_modeData hs, execWData_modeData (s := { s with tmode := m, q := q }) hs,
      modeDataWrite_eq, modeDataWrite_eq]
    dsimp only
    split <;> exact ⟨rfl, hT, hkeep⟩

/-! ### Operations that read the queue -/

theorem execRData_agree (hB : Blind T Q Q') (hT : T s.tmode m) (hQ : Q s.q q) (n : Nat) :
    Out.Agree (Twins T Q') (execRData n s) (execRData n { s with tmode := m, q := q }) := by
  have hleft := hB.left n _ _ hQ
  have hempty : queueEmpty (consumeBytes n q).2 = queueEmpty (consumeBytes n s.q).2 := by
    rw [queueEmpty, queueEmpty, hB.bytes _ _ hleft]
  rw [execRData_eq, execRData_eq]
  simp only [hB.consumed n _ _ hQ, hempty]
  split <;> exact ⟨rfl, hT, hleft⟩

theorem drained_twins (hB : Blind T Q Q') (hT : T s.tmode m) (hQ : Q s.q q) :
    Twins T Q' (drained s) (drained { s with tmode := m, q := q }) := by
  have htotal : drainTotal { s with tmode := m, q := q } = drainTotal s := by
    simp only [drainTotal, hB.bytes _ _ (hB.keep _ _ hQ)]
  have hbytes := hB.consumed (drainTotal s) _ _ hQ
  refine ⟨?_, hT, ?_⟩
  · simp only [drained, htotal, hbytes]; rfl
  · simp only [drained, htotal]; exact hB.left _ _ _ hQ

theorem execWGdst_agree (hB : Blind T Q Q') (hT : T s.tmode m) (hQ : Q s.q q) (d : List Byte) :
    Out.Agree (Twins T Q') (execWGdst d s) (execWGdst d { s with tmode := m, q := q }) := by
  have hkeep := hB.keep _ _ hQ
  by_cases h0 : leValue d % 2 ^ 32 = 0
  · rw [execWGdst_zero h0, execWGdst_zero h0]; exact ⟨rfl, hT, hkeep⟩
  cases hen : s.dmaEnabled with
  | false =>
    rw [execWGdst_disabled h0 hen, execWGdst_disabled (s := { s with tmode := m, q := q }) h0 hen]
    exact ⟨rfl, hT, hkeep⟩
  | true =>
    cases hdir : s.dmaToMemory with
    | false =>
      rw [execWGdst_direction h0 hen hdir,
        execWGdst_direction (s := { s with tmode := m, q := q }) h0 hen hdir]
      rfl
    | true =>
      rw [execWGdst_drain (wordOf_ne_zero h0) hen hdir,
        execWGdst_drain (s := { s with tmode := m, q := q }) (wordOf_ne_zero h0) hen hdir]
      exact drained_twins hB hT hQ

/-! ### The step -/

theorem exec_accessInstr_agree (hB : Blind T Q Q') (hT : T s.tmode m) (hQ : Q s.q q) (a : Access)
    (r : Reg) :
    Out.Agree (Twins T Q') (exec (a.instr r) s) (exec (a.instr r) { s with tmode := m, q := q }) := by
  have hkeep := hB.keep _ _ hQ
  cases a with
  | read x n =>
    cases r
    case data => exact execRData_agree hB hT hQ n
    all_goals exact ⟨rfl, hT, hkeep⟩
  | write x d =>
    cases r
    case statusCommand => exact commandWrite_agree hB hT hQ _
    case data => exact execWData_agree hB hT hQ d
    case gdst => exact execWGdst_agree hB hT hQ d
    case gdapro =>
      show Out.Agree _ (execWGdapro d s) (execWGdapro d _)
      unfold execWGdapro
      dsimp only
      split <;> exact ⟨rfl, hT, hkeep⟩
    all_goals exact ⟨rfl, hT, hkeep⟩

theorem underFaultPolicy_agree {R : State → State → Prop} {u : State} (hR : R s u)
    (hcfg : u.cfg = s.cfg) {o : Out} (ho : ∀ t, o ≠ .next t) :
    Out.Agree R (underFaultPolicy s o) (underFaultPolicy u o) := by
  cases o with
  | next t => exact absurd rfl (ho t)
  | refused r => rw [underFaultPolicy_refused.2 rfl, underFaultPolicy_refused.2 rfl]; rfl
  | fault f => cases f <;> cases hp : s.cfg.hostFaultPolicy <;>
      simp only [underFaultPolicy, hcfg, hp, Out.Agree, hR]

/-- No step tells twins apart. -/
theorem step_agree (hB : Blind T Q Q') (hT : T s.tmode m) (hQ : Q s.q q) :
    Out.Agree (Twins T Q') (step s) (step { s with tmode := m, q := q }) := by
  obtain hp | ⟨a, rest, hp⟩ : s.pending = [] ∨ ∃ a rest, s.pending = a :: rest := by
    cases s.pending <;> simp
  · rw [step_of_pending_nil hp, step_of_pending_nil (s := { s with tmode := m, q := q }) hp]
    exact hB.twins_keep hT hQ
  · cases hd : decodeAccess s.cfg a with
    | error e =>
      rw [step_of_decodeAccess_error hp hd,
        step_of_decodeAccess_error (s := { s with tmode := m, q := q }) hp hd]
      exact underFaultPolicy_agree (hB.twins_keep (s := { s with pending := rest }) hT hQ) rfl
        (rejectOutcome_ne_next e)
    | ok i =>
      obtain ⟨r, -, rfl⟩ := decodeAccess_ok hd
      rw [step_of_decodeAccess_ok hp hd,
        step_of_decodeAccess_ok (s := { s with tmode := m, q := q }) hp hd]
      exact exec_accessInstr_agree (s := { s with pending := rest }) hB hT hQ a r

end

/-! ### Tables and nodes -/

/-- Any tables, and the same queue. -/
theorem blind_transferModes : Blind (fun _ _ => True) (· = ·) (· = ·) where
  modes _ _ _ _ := trivial
  consumed _ _ _ h := by rw [h]
  left _ _ _ h := by rw [h]
  bytes _ _ h := by rw [h]
  keep _ _ h := h
  refl _ := rfl

/-- Settles O53: tables are never told apart. -/
theorem transferModesUnobservable : Obligations.TransferModesUnobservable := by
  unfold Obligations.TransferModesUnobservable
  intro s m
  refine (step_agree (q := s.q) blind_transferModes trivial rfl).mono fun t u h => ?_
  obtain ⟨hu, -, hq⟩ := h
  rw [hu, ← hq]

/-- Well-formed queues of the same bytes, and the same table. -/
theorem blind_nodes (cap : Nat) :
    Blind (· = ·) (fun p q => QueueWf cap p ∧ QueueWf cap q ∧ queueData q = queueData p)
      (fun p q => queueData q = queueData p) where
  modes _ _ _ h := by rw [h]
  consumed k p q h := by
    obtain ⟨hp, hq, hd⟩ := h
    rw [(consumeBytes_spec k hq).1, (consumeBytes_spec k hp).1, hd]
  left k p q h := by
    obtain ⟨hp, hq, hd⟩ := h
    rw [(consumeBytes_spec k hq).2.1, (consumeBytes_spec k hp).2.1, hd]
  bytes p q h := by rw [queueBytes_eq, queueBytes_eq, h]
  keep _ _ h := h.2.2
  refl _ := rfl

/-- Settles O54: queues of the same bytes are never told apart. -/
theorem nodeBoundariesUnobservable : Obligations.NodeBoundariesUnobservable := by
  unfold Obligations.NodeBoundariesUnobservable
  intro s q _ hs hq hd
  refine (step_agree (m := s.tmode) (blind_nodes s.cfg.nodeCap) rfl ⟨hs, hq, hd⟩).mono
    fun t u h => ?_
  obtain ⟨hu, hm, hq'⟩ := h
  refine ⟨?_, hq'⟩
  rw [hu, ← hm]

end Sys2Proof.Machine
end
